-- ==== Sys2Proof/Word.lean ====
section
/-! DEFINITION. The word types of the CHIP-8 core and nothing else: every width the spec gives a register, a field or
an address has one name here. All values are unsigned (R10). -/

namespace Sys2Proof

/-- A memory byte, a general register, a timer, an immediate `nn`: 8 bits (R6, R71). -/
abbrev Byte := BitVec 8

/-- An instruction word, `pc`, `I`, a stack entry: 16 bits (R6, R7, R70). -/
abbrev Word := BitVec 16

/-- The address view `nnn` of an instruction: 12 bits (R71). -/
abbrev Addr := BitVec 12

/-- A register number: the 4-bit field `x` or `y`, and `wait_reg` (R33, R71). -/
abbrev Reg := BitVec 4

/-- The key snapshot of a cycle; bit `k` is 1 when key `k` is pressed (R35, R100). -/
abbrev Keys := BitVec 16

end Sys2Proof
end

