-- ==== Sys2Proof/Machine/Font.lean ====
section
/-! DEFINITION. The configuration parameter FONT: 80 bytes, the glyphs of the digits 0 to F (R8, R38). A machine's FONT is
the field `font` of State, any 80 bytes; here stands its type and the default. It stands here and not in Config.lean so
that a test may correct the default. -/

namespace Sys2Proof

/-- FONT: 80 bytes, the glyph of digit d at bytes 5d to 5d+4, top row first (R8, R38). -/
abbrev Font := Vector Byte 80

/-- The glyphs of 0 to 7 in the default font (R38). -/
def Config.fontLow : List Byte :=
  [0xF0, 0x90, 0x90, 0x90, 0xF0, 0x20, 0x60, 0x20, 0x20, 0x70,
   0xF0, 0x10, 0xF0, 0x80, 0xF0, 0xF0, 0x10, 0xF0, 0x10, 0xF0,
   0x90, 0x90, 0xF0, 0x10, 0x10, 0xF0, 0x80, 0xF0, 0x10, 0xF0,
   0xF0, 0x80, 0xF0, 0x90, 0xF0, 0xF0, 0x10, 0x20, 0x40, 0x40]

/-- The glyphs of 8 to F in the default font (R38). -/
def Config.fontHigh : List Byte :=
  [0xF0, 0x90, 0xF0, 0x90, 0xF0, 0xF0, 0x90, 0xF0, 0x10, 0xF0,
   0xF0, 0x90, 0xF0, 0x90, 0x90, 0xE0, 0x90, 0xE0, 0x90, 0xE0,
   0xF0, 0x80, 0x80, 0x80, 0xF0, 0xE0, 0x90, 0x90, 0x90, 0xE0,
   0xF0, 0x80, 0xF0, 0x80, 0xF0, 0xF0, 0x80, 0xF0, 0x80, 0x80]

/-- The default font as a list (R38). UNVERIFIED: the conventional table, "from general knowledge, not in source" (D16, G2;
log 6). No statement for the provers rests on a byte of it. -/
def Config.fontDefault : List Byte := Config.fontLow ++ Config.fontHigh

/-- The default value of FONT (R8, R38; log 6). -/
def Config.font : Font := ⟨Config.fontDefault.toArray, rfl⟩

end Sys2Proof
end

