-- ==== Sys2Proof/Machine/State.lean ====
section
/-! DEFINITION. The state of the machine: exactly the state of R20's table, one field each, and beside it the
configuration parameter FONT and one field for what the host supplies. All of it is plain data. -/

namespace Sys2Proof.Machine

/-- The cycle state (R33). -/
inductive Mode where
  /-- RUNNING: the next cycle fetches and executes. -/
  | running
  /-- AWAITING_KEY: the next cycle scans the keys (R101). -/
  | awaitingKey
  /-- FAULTED: halted until initialize (R237, R238). -/
  | faulted
  deriving DecidableEq, Repr

/-- The four fault kinds (R230 to R233). -/
inductive FaultKind where
  /-- The word is no instruction (R230). -/
  | decode
  /-- CALL with a full stack, RET with an empty one (R231). -/
  | stack
  /-- An access outside 0x000..0xFFF (R232). -/
  | memoryBound
  /-- SKP or SKNP with Vx > 15 (R233). -/
  | keyIndex
  deriving DecidableEq, Repr

/-- The fault record (R34): `pc` is p, `word` the fetched instruction or absent for a fetch fault, `addr` the first
out-of-range address or the offending key index where the kind has one. -/
structure FaultRecord where
  kind : FaultKind
  pc   : Word
  word : Option Word
  addr : Option Word
  deriving DecidableEq, Repr

/-- The transactions of the host (R248). -/
inductive Transaction where
  /-- initialize: the reset state (R260). -/
  | init
  /-- load_program(bytes) (R263). -/
  | loadProgram (bytes : List Byte)
  /-- run_cycle(keys, rnd) (R100). -/
  | runCycle (keys : Keys) (rnd : Byte)
  /-- tick: one timer decrement (R243). -/
  | tick
  /-- ack_draw: clears the draw flag (R251). -/
  | ackDraw
  deriving DecidableEq, Repr, Inhabited

/-- THE MODEL'S OWN FIELDS, not the core's (R20, R35, R36 say the inputs are not state): what the host supplies, as plain
data the step reads. No instruction writes them. -/
structure HostSide where
  /-- The key snapshot of the cycle being run; every cycle overwrites it before anything reads it (R35, R109; log 4). -/
  keys : Keys
  /-- The random byte of the cycle being run; every cycle overwrites it before anything reads it (R36, R109; log 4). -/
  rnd : Byte
  /-- The transactions the host will issue, the next one first (R247; log 2). -/
  pending : List Transaction
  /-- How many free transactions have been drawn (log 3). -/
  draws : Nat
  /-- Whether the last transaction was initialize, so that load_program may come next (R264; log 5). -/
  loadable : Bool
  deriving DecidableEq, Repr

/-- Memory: the (address, byte) pairs that differ from what State.reset's memory holds, addresses rising (R50; log 10). -/
abbrev Memory := List Host.Cell

/-- The display buffer: 32 rows of 64 pixels, row-major (R31). -/
abbrev Display := Vector (Vector Bool 64) 32

/-- The machine: R20's table, the parameter FONT, and the host's side. -/
structure State where
  /-- `mem[0..4095]` (R20, R50). -/
  mem : Memory
  /-- `V[0..15]` (R21); V[15] is VF (R22). -/
  V : Vector Byte 16
  /-- The index register (R27). -/
  I : Word
  /-- The program counter (R23). -/
  pc : Word
  /-- The number of live stack entries, 0..16 (R28). -/
  sp : Fin 17
  /-- The return addresses (R28). -/
  stack : Vector Word 16
  /-- The delay timer (R29). -/
  DT : Byte
  /-- The sound timer (R30). -/
  ST : Byte
  /-- The display buffer (R31). -/
  disp : Display
  /-- The draw flag (R32). -/
  draw : Bool
  /-- The cycle state (R33). -/
  mode : Mode
  /-- The target of a key-wait (R33). -/
  waitReg : Reg
  /-- The fault record, if any (R34). -/
  fault : Option FaultRecord
  /-- Configuration, not state of the core: the parameter FONT that initialize loads, any 80 bytes; nothing writes it
  (R8, D16, U7; log 6). -/
  font : Font
  /-- The model's own: what the host supplies. -/
  host : HostSide
  deriving DecidableEq, Repr

/-- Reasons a step stops the machine: NONE. "The core never stops by itself" (R271): each of the four faults of
R230 to R233 is entered as a next state (R237), and a cycle in FAULTED changes nothing and is a next state too (R107).
Nobody raises a value of this type; safe and unsafe do not arise (log 1). -/
inductive Fault where
  deriving DecidableEq, Repr

/-- Reasons a step gives no meaning. -/
inductive Refusal where
  /-- An instruction without a meaning in this model; raised by exec alone, safe. No instruction of this model has it. -/
  | notModelled (mnemonic : String)
  /-- load_program when the transaction before it was not initialize: "a model refuses it and gives it no meaning"
  (R264). Raised by loadProgram; safe (log 5). -/
  | loadNotAfterInitialize
  /-- load_program of more than 0xE00 bytes: "a model refuses it and gives it no meaning" (R264). Raised by loadProgram;
  safe (log 5). -/
  | imageTooLong (len : Nat)
  deriving DecidableEq, Repr

/-- The host's side at reset: nothing queued, nothing drawn, and a program may be loaded. DESIGN CHOICE (logs 2 to 5). -/
def HostSide.reset : HostSide :=
  { keys := 0, rnd := 0, pending := [], draws := 0, loadable := true }

/-- The machine right after initialize (R39, R260), FONT being its default (R8; log 6). Memory lists nothing: every byte
reads as its reset contents, FONT below 0x050 and 0 above (R39). State.resetWith is the same for any FONT. -/
def State.reset : State :=
  { mem := []
    V := Vector.replicate 16 0
    I := 0
    pc := 0x200
    sp := 0
    stack := Vector.replicate 16 0
    DT := 0
    ST := 0
    disp := Vector.replicate 32 (Vector.replicate 64 false)
    draw := false
    mode := .running
    waitReg := 0
    fault := none
    font := Config.font
    host := HostSide.reset }

end Sys2Proof.Machine
end

