-- ==== Sys2Proof/Config.lean ====
section
/-! DEFINITION. The free values: what the host decides and the spec leaves open. They have no body, so nothing can be
proved of a value. The other configuration parameter, FONT, is the field `font` of State, with its default in
Machine/Font.lean; CYCLE_RATE and TIMER_RATE are the host's, and no rule of the core reads them (R9). -/

namespace Sys2Proof

/-- FREE VALUE. The transactions the host issues after those it has queued, one for each draw, inputs and all: "A model
treats each transaction as one step and admits every order of transactions the host may issue" (R247, R255, R271, U9),
and "a model must admit every value 0..255" of the random byte (R36, D15; logs 2 and 3). -/
opaque Config.freeTransaction : Nat → Machine.Transaction

/-- FREE VALUE. The random byte of the run_cycle that State.withFetchWord makes the host's next transaction (R36, D15;
logs 3 and 14). -/
opaque Config.freeRnd : Nat → Byte

/-- FREE VALUE. The key snapshot of that run_cycle: the keys are "supplied fresh each cycle by the host" (R35; logs 3
and 14). -/
opaque Config.freeKeys : Nat → Keys

end Sys2Proof
end

