-- ==== Sys2Proof/Machine/Ops.lean ====
section
/-! DEFINITION. The named operations every meaning is built from: memory with its one bound check (R55), the program
counter (R24), and fault entry (R237). There is no return from a fault: only initialize leaves FAULTED (R238, R241); it
stands in HostInterface.lean. -/

namespace Sys2Proof.Machine

/-! ### Memory as data -/

/-- What an address the memory does not list reads as: what State.reset holds there, the default FONT below 0x050 and 0 above
(R39; log 10). initialize lists the bytes of a FONT that differ from the default. -/
def unlisted (a : Nat) : Byte := (Config.fontDefault[a]?).getD 0

/-- The byte at an address: the listed one, else the reset contents (R59). -/
def Memory.read : Memory → Nat → Byte
  | [], a => unlisted a
  | (k, b) :: m, a => if k = a then b else Memory.read m a

/-- Take an address off the list, so that it reads as its reset contents. -/
def Memory.erase : Memory → Nat → Memory
  | [], _ => []
  | (k, b) :: m, a => if k = a then Memory.erase m a else (k, b) :: Memory.erase m a

/-- List a byte at an address, keeping the addresses rising. -/
def Memory.insert : Memory → Nat → Byte → Memory
  | [], a, b => [(a, b)]
  | (k, c) :: m, a, b =>
    if a < k then (a, b) :: (k, c) :: m
    else if a = k then (a, b) :: m
    else (k, c) :: Memory.insert m a b

/-- Write one byte (R12, R59). Writing what an unlisted address reads as takes the address off the list. -/
def Memory.write (m : Memory) (a : Nat) (b : Byte) : Memory :=
  if b = unlisted a then Memory.erase m a else Memory.insert m a b

/-- Write bytes at rising addresses, in order (R59). -/
def Memory.writeBytes : Memory → Nat → List Byte → Memory
  | m, _, [] => m
  | m, a, b :: bs => Memory.writeBytes (Memory.write m a b) (a + 1) bs

/-- Read `len` bytes at rising addresses. -/
def Memory.readBytes (m : Memory) (a len : Nat) : List Byte :=
  (List.range len).map fun k => Memory.read m (a + k)

/-- The canonical form: addresses strictly rising, all below 0x1000 (R50), none listed with its reset contents. -/
abbrev Memory.wf (m : Memory) : Prop :=
  m.Pairwise (fun c d => c.1 < d.1) ∧ ∀ c ∈ m, c.1 < 0x1000 ∧ c.2 ≠ unlisted c.1

/-! ### Memory accesses of the core -/

/-- The bound check of R55 over the range of `len` bytes from `a`: none when every address is at most 0xFFF or the range is
empty, else the first address above 0xFFF (D23). -/
def rangeFault (a len : Nat) : Option Word :=
  if len = 0 ∨ a + len ≤ 0x1000 then none
  else some (if a > 0xFFF then BitVec.ofNat 16 a else 0x1000)

/-- Read `len` bytes from `a`, or the address the bound check reports (R53, R55). MemRead(a, 1) is `len` = 1 (R12). -/
def State.readRange (s : State) (a len : Nat) : Except Word (List Byte) :=
  match rangeFault a len with
  | none => .ok (Memory.readBytes s.mem a len)
  | some bad => .error bad

/-- Write bytes from `a`, or the address the bound check reports, with nothing written (R53, R55). MemWrite(a, 1, v) is one
byte (R12). -/
def State.writeRange (s : State) (a : Nat) (bs : List Byte) : Except Word State :=
  match rangeFault a bs.length with
  | none => .ok { s with mem := Memory.writeBytes s.mem a bs }
  | some bad => .error bad

/-! ### Faults -/

/-- Taking a fault (R237): the record is stored with p, the address of the instruction, the mode becomes FAULTED, and
nothing else changes; there is no handler, and pc still is p. -/
def State.raise (s : State) (kind : FaultKind) (word addr : Option Word) : State :=
  { s with mode := .faulted, fault := some { kind := kind, pc := s.pc, word := word, addr := addr } }

/-- The end of a memory instruction (R106): the state it reached, or a MemoryBoundFault of the state it began in, which
discards every tentative write (R232). `w` is the instruction word. -/
def State.commit (s : State) (w : Word) (result : Except Word State) : State :=
  match result with
  | .ok t => t
  | .error bad => s.raise .memoryBound (some w) (some bad)

/-! ### The program counter (R24) -/

/-- pc <- p + 2. -/
def State.advance (s : State) : State := { s with pc := s.pc + 2 }

/-- pc <- p + 4 if the condition holds, else p + 2 (R17: a skip). -/
def State.skipIf (s : State) (c : Bool) : State := { s with pc := s.pc + (if c then 4 else 2) }

/-- pc <- target. -/
def State.jump (s : State) (target : Word) : State := { s with pc := target }

end Sys2Proof.Machine
end

