-- ==== Sys2Proof/Machine/Operands.lean ====
section
/-! DEFINITION. The operand forms of R73: registers by number, V0 and VF, the register range V0..Vx, and the
zero-extended immediates and addresses. -/

namespace Sys2Proof.Machine

/-- The number of VF (R11, R22). -/
def VF : Reg := 0xF

/-- V[x] (R11, R21). -/
def State.v (s : State) (x : Reg) : Byte := s.V[x.toNat]'(x.isLt)

/-- V[x] <- b (R11, R21). No register is hardwired. -/
def State.setV (s : State) (x : Reg) (b : Byte) : State := { s with V := s.V.set x.toNat b x.isLt }

/-- V0..Vx, in order (R214). -/
def State.regsUpTo (s : State) (x : Reg) : List Byte :=
  (List.range (x.toNat + 1)).map fun i => s.v (BitVec.ofNat 4 i)

/-- V[i], V[i+1], ... <- the bytes, in order (R215). -/
def State.setRegsFrom (s : State) (i : Nat) : List Byte → State
  | [] => s
  | b :: bs => State.setRegsFrom (s.setV (BitVec.ofNat 4 i) b) (i + 1) bs

/-- An address field meeting pc or I: zero-extended to 16 bits (R73). -/
def addrWord (nnn : Addr) : Word := nnn.setWidth 16

/-- A byte meeting a 16-bit sum: zero-extended to 16 bits (R10, R73). -/
def byteWord (b : Byte) : Word := b.setWidth 16

/-- I as a memory address (R58: the address an instruction computes is the address it accesses). -/
def State.indexAddr (s : State) : Nat := s.I.toNat

end Sys2Proof.Machine
end

