-- ==== Sys2Proof/Machine/Flags.lean ====
section
/-! DEFINITION. The flag computations of R41, each the byte that goes to VF, and the write of VF. -/

namespace Sys2Proof.Machine

/-- A flag byte: 1 when the condition holds, else 0 (R151). -/
def flag (c : Bool) : Byte := if c then 1 else 0

/-- The carry of ADD Vx,Vy: 1 if the exact sum exceeds 0xFF (R146). -/
def carryFlag (a b : Byte) : Byte := flag (0xFF < a.toNat + b.toNat)

/-- The no-borrow flag of SUB: 1 if Vx > Vy, strictly (R147, C9). -/
def greaterFlag (a b : Byte) : Byte := flag (b.toNat < a.toNat)

/-- The no-borrow flag of SUBN: 1 if Vx ≤ Vy, equality included (R149). -/
def lessEqFlag (a b : Byte) : Byte := flag (a.toNat ≤ b.toNat)

/-- The bit SHR shifts out: bit 0 (R148). -/
def lowBitFlag (a : Byte) : Byte := a &&& 1

/-- The bit SHL shifts out: bit 7 (R150). -/
def highBitFlag (a : Byte) : Byte := a >>> 7

/-- The range flag of ADD I: 1 if the new I exceeds 0xFFF (R211). -/
def rangeFlag (i : Word) : Byte := flag (0xFFF < i.toNat)

/-- VF <- b (R22, R41). -/
def State.setVF (s : State) (b : Byte) : State := s.setV VF b

end Sys2Proof.Machine
end

