-- ==== Sys2Proof/Machine/Alu.lean ====
section
/-! DEFINITION. The register ALU (42_alu.md, R140 to R152). Each meaning runs its rule's statements in the order written,
each reading the registers as the statements before it left them (R13, D8; log 9), and ends with pc <- p + 2. -/

namespace Sys2Proof.Machine

/-- LD Vx, nn (R140). -/
def execLdImm (x : Reg) (nn : Byte) (s : State) : Host.Outcome State Fault Refusal :=
  .next (s.setV x nn).advance

/-- ADD Vx, nn (R141): wraps, no flag. -/
def execAddImm (x : Reg) (nn : Byte) (s : State) : Host.Outcome State Fault Refusal :=
  .next (s.setV x (s.v x + nn)).advance

/-- LD Vx, Vy (R142). -/
def execLdReg (x y : Reg) (s : State) : Host.Outcome State Fault Refusal :=
  .next (s.setV x (s.v y)).advance

/-- OR Vx, Vy (R143). -/
def execOrReg (x y : Reg) (s : State) : Host.Outcome State Fault Refusal :=
  .next (s.setV x (s.v x ||| s.v y)).advance

/-- AND Vx, Vy (R144). -/
def execAndReg (x y : Reg) (s : State) : Host.Outcome State Fault Refusal :=
  .next (s.setV x (s.v x &&& s.v y)).advance

/-- XOR Vx, Vy (R145). -/
def execXorReg (x y : Reg) (s : State) : Host.Outcome State Fault Refusal :=
  .next (s.setV x (s.v x ^^^ s.v y)).advance

/-- ADD Vx, Vy (R146): the sum to Vx, then the carry of the operands as they were to VF. -/
def execAddReg (x y : Reg) (s : State) : Host.Outcome State Fault Refusal :=
  .next ((s.setV x (s.v x + s.v y)).setVF (carryFlag (s.v x) (s.v y))).advance

/-- The second statement of SUB: Vx <- Vx - Vy, read from the state it is applied to (R147). -/
def State.subInto (s : State) (x y : Reg) : State := s.setV x (s.v x - s.v y)

/-- SUB Vx, Vy (R147): VF first, "set BEFORE computing result"; then the difference. -/
def execSubReg (x y : Reg) (s : State) : Host.Outcome State Fault Refusal :=
  .next ((s.setVF (greaterFlag (s.v x) (s.v y))).subInto x y).advance

/-- The second statement of SHR: Vx <- Vx >> 1, read from the state it is applied to (R148). -/
def State.shiftRight (s : State) (x : Reg) : State := s.setV x (s.v x >>> 1)

/-- SHR Vx (R148): VF first, then the shift. The field `y` is not read (R79). -/
def execShr (x _y : Reg) (s : State) : Host.Outcome State Fault Refusal :=
  .next ((s.setVF (lowBitFlag (s.v x))).shiftRight x).advance

/-- The second statement of SUBN: Vx <- Vy - Vx, read from the state it is applied to (R149). -/
def State.subnInto (s : State) (x y : Reg) : State := s.setV x (s.v y - s.v x)

/-- SUBN Vx, Vy (R149): VF first, then the difference. -/
def execSubnReg (x y : Reg) (s : State) : Host.Outcome State Fault Refusal :=
  .next ((s.setVF (lessEqFlag (s.v x) (s.v y))).subnInto x y).advance

/-- The second statement of SHL: Vx <- Vx << 1, read from the state it is applied to (R150). -/
def State.shiftLeft (s : State) (x : Reg) : State := s.setV x (s.v x <<< 1)

/-- SHL Vx (R150): VF first, then the shift. The field `y` is not read (R79). -/
def execShl (x _y : Reg) (s : State) : Host.Outcome State Fault Refusal :=
  .next ((s.setVF (highBitFlag (s.v x))).shiftLeft x).advance

/-- RND Vx, nn (R152): the cycle's random byte, masked. -/
def execRnd (x : Reg) (nn : Byte) (s : State) : Host.Outcome State Fault Refusal :=
  .next (s.setV x (s.host.rnd &&& nn)).advance

end Sys2Proof.Machine
end

