-- ==== Sys2Proof/Syntax.lean ====
section
/-! DEFINITION. The instructions: one constructor per row of spec/opcode_table.json, in the table's order (R75). -/

namespace Sys2Proof

/-- The 34 instructions of the opcode map (R75). Register operands, immediates and addresses have exactly the widths of
R71. The sprite height of DRW is a count, so it is a number; WellFormed gives its bound. SHR and SHL keep the field `y`,
which the decoder reads and the meaning does not (R79). -/
inductive Instr where
  /-- 00E0, clear the screen (R171). -/
  | cls
  /-- 00EE, return (R120). -/
  | ret
  /-- 1nnn, jump (R121). -/
  | jp (nnn : Addr)
  /-- 2nnn, call (R122). -/
  | call (nnn : Addr)
  /-- 3xnn, skip if Vx = nn (R123). -/
  | seImm (x : Reg) (nn : Byte)
  /-- 4xnn, skip if Vx ≠ nn (R124). -/
  | sneImm (x : Reg) (nn : Byte)
  /-- 5xy0, skip if Vx = Vy (R125). -/
  | seReg (x y : Reg)
  /-- 6xnn, Vx := nn (R140). -/
  | ldImm (x : Reg) (nn : Byte)
  /-- 7xnn, Vx := Vx + nn, no flag (R141). -/
  | addImm (x : Reg) (nn : Byte)
  /-- 8xy0, Vx := Vy (R142). -/
  | ldReg (x y : Reg)
  /-- 8xy1, bitwise OR (R143). -/
  | orReg (x y : Reg)
  /-- 8xy2, bitwise AND (R144). -/
  | andReg (x y : Reg)
  /-- 8xy3, bitwise XOR (R145). -/
  | xorReg (x y : Reg)
  /-- 8xy4, add with carry flag (R146). -/
  | addReg (x y : Reg)
  /-- 8xy5, Vx - Vy (R147). -/
  | subReg (x y : Reg)
  /-- 8xy6, shift right; `y` is decoded and not read (R148, R79). -/
  | shr (x y : Reg)
  /-- 8xy7, Vy - Vx (R149). -/
  | subnReg (x y : Reg)
  /-- 8xyE, shift left; `y` is decoded and not read (R150, R79). -/
  | shl (x y : Reg)
  /-- 9xy0, skip if Vx ≠ Vy (R126). -/
  | sneReg (x y : Reg)
  /-- Annn, I := nnn (R210). -/
  | ldI (nnn : Addr)
  /-- Bnnn, jump to nnn + V0 (R127). -/
  | jpV0 (nnn : Addr)
  /-- Cxnn, random byte masked (R152). -/
  | rnd (x : Reg) (nn : Byte)
  /-- Dxyn, draw an `n`-row sprite (R172). -/
  | drw (x y : Reg) (n : Nat)
  /-- Ex9E, skip if key Vx is pressed (R190). -/
  | skp (x : Reg)
  /-- ExA1, skip if key Vx is not pressed (R191). -/
  | sknp (x : Reg)
  /-- Fx07, Vx := DT (R192). -/
  | ldVxDT (x : Reg)
  /-- Fx0A, wait for a key (R193). -/
  | ldVxK (x : Reg)
  /-- Fx15, DT := Vx (R194). -/
  | ldDTVx (x : Reg)
  /-- Fx18, ST := Vx (R195). -/
  | ldSTVx (x : Reg)
  /-- Fx1E, I := I + Vx with range flag (R211). -/
  | addI (x : Reg)
  /-- Fx29, I := address of glyph Vx (R212). -/
  | ldF (x : Reg)
  /-- Fx33, store the decimal digits of Vx (R213). -/
  | ldB (x : Reg)
  /-- Fx55, store V0..Vx at I (R214). -/
  | ldMemVx (x : Reg)
  /-- Fx65, load V0..Vx from I (R215). -/
  | ldVxMem (x : Reg)
  deriving DecidableEq, Repr

end Sys2Proof
end

