-- ==== Sys2Proof/Decode.lean ====
section
/-! DEFINITION. From instruction words to instructions and back: the field split (R71), the decoder (R74, R77), the
opcode map as masks and patterns (R75), and the encoder, written from the same map. -/

namespace Sys2Proof

/-- The field `op`, bits 15..12 (R71). -/
def fieldOp (w : Word) : BitVec 4 := w.extractLsb' 12 4

/-- The field `x`, bits 11..8 (R71). -/
def fieldX (w : Word) : Reg := w.extractLsb' 8 4

/-- The field `y`, bits 7..4 (R71). -/
def fieldY (w : Word) : Reg := w.extractLsb' 4 4

/-- The field `n`, bits 3..0 (R71). -/
def fieldN (w : Word) : BitVec 4 := w.extractLsb' 0 4

/-- The immediate view `nn`, bits 7..0 (R71). -/
def fieldNN (w : Word) : Byte := w.extractLsb' 0 8

/-- The address view `nnn`, bits 11..0 (R71). -/
def fieldNNN (w : Word) : Addr := w.extractLsb' 0 12

/-- Why the decoder gives no instruction: the bytes are too few, or the word is one of R77's, named by its group. -/
inductive Reject where
  /-- Fewer than two bytes are left (R70). -/
  | truncated
  /-- Group 0: every word except 00E0 and 00EE (R77, D4). -/
  | group0
  /-- Group 5: 5xyn with n ≠ 0 (R77). -/
  | group5
  /-- Group 8: 8xyn with n in 8, 9, A, B, C, D, F (R77). -/
  | group8
  /-- Group 9: 9xyn with n ≠ 0 (R77). -/
  | group9
  /-- Group E: Exnn with nn not 9E or A1 (R77). -/
  | groupE
  /-- Group F: Fxnn with nn not one of the nine selectors (R77). -/
  | groupF
  deriving DecidableEq, Repr

/-- What the decoder answers for one word (R74). -/
inductive Decoded where
  /-- The word is this instruction. -/
  | instr (i : Instr)
  /-- The word is illegal. -/
  | illegal (why : Reject)
  deriving DecidableEq, Repr

/-- Group 0 (R75 rows 1 and 2). -/
def decodeGroup0 (w : Word) : Decoded :=
  if w = 0x00E0 then .instr .cls
  else if w = 0x00EE then .instr .ret
  else .illegal .group0

/-- Group 8 (R75 rows 10 to 18): the low nibble selects. -/
def decodeGroup8 (x y : Reg) (n : BitVec 4) : Decoded :=
  match n.toNat with
  | 0x0 => .instr (.ldReg x y)
  | 0x1 => .instr (.orReg x y)
  | 0x2 => .instr (.andReg x y)
  | 0x3 => .instr (.xorReg x y)
  | 0x4 => .instr (.addReg x y)
  | 0x5 => .instr (.subReg x y)
  | 0x6 => .instr (.shr x y)
  | 0x7 => .instr (.subnReg x y)
  | 0xE => .instr (.shl x y)
  | _ => .illegal .group8

/-- Group E (R75 rows 24 and 25): the low byte selects. -/
def decodeGroupE (x : Reg) (nn : Byte) : Decoded :=
  if nn = 0x9E then .instr (.skp x)
  else if nn = 0xA1 then .instr (.sknp x)
  else .illegal .groupE

/-- Group F (R75 rows 26 to 34): the low byte selects. -/
def decodeGroupF (x : Reg) (nn : Byte) : Decoded :=
  if nn = 0x07 then .instr (.ldVxDT x)
  else if nn = 0x0A then .instr (.ldVxK x)
  else if nn = 0x15 then .instr (.ldDTVx x)
  else if nn = 0x18 then .instr (.ldSTVx x)
  else if nn = 0x1E then .instr (.addI x)
  else if nn = 0x29 then .instr (.ldF x)
  else if nn = 0x33 then .instr (.ldB x)
  else if nn = 0x55 then .instr (.ldMemVx x)
  else if nn = 0x65 then .instr (.ldVxMem x)
  else .illegal .groupF

/-- The decoder: a total function of the word alone (R74, R104). UNVERIFIED: the bit patterns are the conventional CHIP-8
table that R75 adopts (log 7); strict, as D3 and D4 say (log 8). -/
def decode (w : Word) : Decoded :=
  match (fieldOp w).toNat with
  | 0x0 => decodeGroup0 w
  | 0x1 => .instr (.jp (fieldNNN w))
  | 0x2 => .instr (.call (fieldNNN w))
  | 0x3 => .instr (.seImm (fieldX w) (fieldNN w))
  | 0x4 => .instr (.sneImm (fieldX w) (fieldNN w))
  | 0x5 => if fieldN w = 0 then .instr (.seReg (fieldX w) (fieldY w)) else .illegal .group5
  | 0x6 => .instr (.ldImm (fieldX w) (fieldNN w))
  | 0x7 => .instr (.addImm (fieldX w) (fieldNN w))
  | 0x8 => decodeGroup8 (fieldX w) (fieldY w) (fieldN w)
  | 0x9 => if fieldN w = 0 then .instr (.sneReg (fieldX w) (fieldY w)) else .illegal .group9
  | 0xA => .instr (.ldI (fieldNNN w))
  | 0xB => .instr (.jpV0 (fieldNNN w))
  | 0xC => .instr (.rnd (fieldX w) (fieldNN w))
  | 0xD => .instr (.drw (fieldX w) (fieldY w) (fieldN w).toNat)
  | 0xE => decodeGroupE (fieldX w) (fieldNN w)
  | _ => decodeGroupF (fieldX w) (fieldNN w)

/-- A word of two bytes, the most significant first (R54, R70). -/
def wordOfBytes (hi lo : Byte) : Word := hi ++ lo

/-- The two bytes of a word as memory holds them, the most significant first (R54, R70). -/
def bytesOfWord (w : Word) : List Byte := [w.extractLsb' 8 8, w.extractLsb' 0 8]

/-- The decoder on a stream of bytes: what the first two bytes are, and the bytes after them. -/
def decodeBytes : List Byte → Decoded × List Byte
  | hi :: lo :: rest => (decode (wordOfBytes hi lo), rest)
  | short => (.illegal .truncated, short)

/-- The instruction the decoder reads from the table's numbering of a row's bits: one 16-bit word, bit 0 the least
significant of it (R70, opcode_table.json). The word is laid out as memory holds it, and the decoder reads it there. -/
def decodeTableWord (nbits w : Nat) : Option Instr :=
  match decodeBytes (bytesOfWord (BitVec.ofNat 16 (w % 2 ^ nbits))) with
  | (.instr i, _) => some i
  | (.illegal _, _) => none

/-- The encoder: the word of a well-formed instruction, field by field in the formats of R72 and the patterns of R75. -/
def encode : Instr → Word
  | .cls => 0x00E0
  | .ret => 0x00EE
  | .jp nnn => 0x1#4 ++ nnn
  | .call nnn => 0x2#4 ++ nnn
  | .seImm x nn => 0x3#4 ++ x ++ nn
  | .sneImm x nn => 0x4#4 ++ x ++ nn
  | .seReg x y => 0x5#4 ++ x ++ y ++ 0x0#4
  | .ldImm x nn => 0x6#4 ++ x ++ nn
  | .addImm x nn => 0x7#4 ++ x ++ nn
  | .ldReg x y => 0x8#4 ++ x ++ y ++ 0x0#4
  | .orReg x y => 0x8#4 ++ x ++ y ++ 0x1#4
  | .andReg x y => 0x8#4 ++ x ++ y ++ 0x2#4
  | .xorReg x y => 0x8#4 ++ x ++ y ++ 0x3#4
  | .addReg x y => 0x8#4 ++ x ++ y ++ 0x4#4
  | .subReg x y => 0x8#4 ++ x ++ y ++ 0x5#4
  | .shr x y => 0x8#4 ++ x ++ y ++ 0x6#4
  | .subnReg x y => 0x8#4 ++ x ++ y ++ 0x7#4
  | .shl x y => 0x8#4 ++ x ++ y ++ 0xE#4
  | .sneReg x y => 0x9#4 ++ x ++ y ++ 0x0#4
  | .ldI nnn => 0xA#4 ++ nnn
  | .jpV0 nnn => 0xB#4 ++ nnn
  | .rnd x nn => 0xC#4 ++ x ++ nn
  | .drw x y n => 0xD#4 ++ x ++ y ++ BitVec.ofNat 4 n
  | .skp x => 0xE#4 ++ x ++ 0x9E#8
  | .sknp x => 0xE#4 ++ x ++ 0xA1#8
  | .ldVxDT x => 0xF#4 ++ x ++ 0x07#8
  | .ldVxK x => 0xF#4 ++ x ++ 0x0A#8
  | .ldDTVx x => 0xF#4 ++ x ++ 0x15#8
  | .ldSTVx x => 0xF#4 ++ x ++ 0x18#8
  | .addI x => 0xF#4 ++ x ++ 0x1E#8
  | .ldF x => 0xF#4 ++ x ++ 0x29#8
  | .ldB x => 0xF#4 ++ x ++ 0x33#8
  | .ldMemVx x => 0xF#4 ++ x ++ 0x55#8
  | .ldVxMem x => 0xF#4 ++ x ++ 0x65#8

/-- One row of the opcode map: a word `w` is this row's instruction exactly when `w &&& mask = pattern` (R74). -/
structure OpcodeRow where
  mask : Word
  pattern : Word
  deriving DecidableEq, Repr

/-- The row of the opcode map an instruction belongs to, mask and match as R75 prints them. -/
def Instr.row : Instr → OpcodeRow
  | .cls => ⟨0xFFFF, 0x00E0⟩
  | .ret => ⟨0xFFFF, 0x00EE⟩
  | .jp _ => ⟨0xF000, 0x1000⟩
  | .call _ => ⟨0xF000, 0x2000⟩
  | .seImm _ _ => ⟨0xF000, 0x3000⟩
  | .sneImm _ _ => ⟨0xF000, 0x4000⟩
  | .seReg _ _ => ⟨0xF00F, 0x5000⟩
  | .ldImm _ _ => ⟨0xF000, 0x6000⟩
  | .addImm _ _ => ⟨0xF000, 0x7000⟩
  | .ldReg _ _ => ⟨0xF00F, 0x8000⟩
  | .orReg _ _ => ⟨0xF00F, 0x8001⟩
  | .andReg _ _ => ⟨0xF00F, 0x8002⟩
  | .xorReg _ _ => ⟨0xF00F, 0x8003⟩
  | .addReg _ _ => ⟨0xF00F, 0x8004⟩
  | .subReg _ _ => ⟨0xF00F, 0x8005⟩
  | .shr _ _ => ⟨0xF00F, 0x8006⟩
  | .subnReg _ _ => ⟨0xF00F, 0x8007⟩
  | .shl _ _ => ⟨0xF00F, 0x800E⟩
  | .sneReg _ _ => ⟨0xF00F, 0x9000⟩
  | .ldI _ => ⟨0xF000, 0xA000⟩
  | .jpV0 _ => ⟨0xF000, 0xB000⟩
  | .rnd _ _ => ⟨0xF000, 0xC000⟩
  | .drw _ _ _ => ⟨0xF000, 0xD000⟩
  | .skp _ => ⟨0xF0FF, 0xE09E⟩
  | .sknp _ => ⟨0xF0FF, 0xE0A1⟩
  | .ldVxDT _ => ⟨0xF0FF, 0xF007⟩
  | .ldVxK _ => ⟨0xF0FF, 0xF00A⟩
  | .ldDTVx _ => ⟨0xF0FF, 0xF015⟩
  | .ldSTVx _ => ⟨0xF0FF, 0xF018⟩
  | .addI _ => ⟨0xF0FF, 0xF01E⟩
  | .ldF _ => ⟨0xF0FF, 0xF029⟩
  | .ldB _ => ⟨0xF0FF, 0xF033⟩
  | .ldMemVx _ => ⟨0xF0FF, 0xF055⟩
  | .ldVxMem _ => ⟨0xF0FF, 0xF065⟩

/-- Rows 1 to 19 of the opcode map, in R75's order. -/
def opcodeMapLow : List OpcodeRow :=
  [⟨0xFFFF, 0x00E0⟩, ⟨0xFFFF, 0x00EE⟩, ⟨0xF000, 0x1000⟩, ⟨0xF000, 0x2000⟩, ⟨0xF000, 0x3000⟩, ⟨0xF000, 0x4000⟩,
   ⟨0xF00F, 0x5000⟩, ⟨0xF000, 0x6000⟩, ⟨0xF000, 0x7000⟩, ⟨0xF00F, 0x8000⟩, ⟨0xF00F, 0x8001⟩, ⟨0xF00F, 0x8002⟩,
   ⟨0xF00F, 0x8003⟩, ⟨0xF00F, 0x8004⟩, ⟨0xF00F, 0x8005⟩, ⟨0xF00F, 0x8006⟩, ⟨0xF00F, 0x8007⟩, ⟨0xF00F, 0x800E⟩,
   ⟨0xF00F, 0x9000⟩]

/-- Rows 20 to 34 of the opcode map, in R75's order. -/
def opcodeMapHigh : List OpcodeRow :=
  [⟨0xF000, 0xA000⟩, ⟨0xF000, 0xB000⟩, ⟨0xF000, 0xC000⟩, ⟨0xF000, 0xD000⟩, ⟨0xF0FF, 0xE09E⟩, ⟨0xF0FF, 0xE0A1⟩,
   ⟨0xF0FF, 0xF007⟩, ⟨0xF0FF, 0xF00A⟩, ⟨0xF0FF, 0xF015⟩, ⟨0xF0FF, 0xF018⟩, ⟨0xF0FF, 0xF01E⟩, ⟨0xF0FF, 0xF029⟩,
   ⟨0xF0FF, 0xF033⟩, ⟨0xF0FF, 0xF055⟩, ⟨0xF0FF, 0xF065⟩]

/-- The opcode map as R75 prints it: 34 rows (R74, R75). -/
def opcodeMap : List OpcodeRow := opcodeMapLow ++ opcodeMapHigh

end Sys2Proof
end

