-- ==== Sys2Proof/Machine/ControlFlow.lean ====
section
/-! DEFINITION. Control transfer: RET, JP, CALL, the register skips and JP V0 (41_control_flow.md, R120 to R127). -/

namespace Sys2Proof.Machine

/-- The state after RET with the stack pointer at `k + 1` (R120): the entry is read and kept (R28, D24). -/
def State.popTo (s : State) (k : Nat) (h : k < 16) : State :=
  { s with sp := ⟨k, by omega⟩, pc := s.stack[k] }

/-- The state after CALL with the stack pointer at `k` (R122): the return address goes to stack[k]. -/
def State.pushAt (s : State) (k : Nat) (h : k < 16) (target : Word) : State :=
  { s with stack := s.stack.set k (s.pc + 2), sp := ⟨k + 1, by omega⟩, pc := target }

/-- RET (R120): StackFault when sp = 0; otherwise sp <- sp - 1 and pc <- stack[sp]. -/
def execRet (s : State) : Host.Outcome State Fault Refusal :=
  .next (match s.sp with
    | ⟨0, _⟩ => s.raise .stack (some (encode .ret)) none
    | ⟨k + 1, h⟩ => s.popTo k (by omega))

/-- JP nnn (R121). -/
def execJp (nnn : Addr) (s : State) : Host.Outcome State Fault Refusal :=
  .next (s.jump (addrWord nnn))

/-- CALL nnn (R122): StackFault when sp = 16; otherwise p + 2 is pushed and pc <- nnn. -/
def execCall (nnn : Addr) (s : State) : Host.Outcome State Fault Refusal :=
  .next (if h : s.sp.val < 16 then s.pushAt s.sp.val h (addrWord nnn)
    else s.raise .stack (some (encode (.call nnn))) none)

/-- SE Vx, nn (R123). -/
def execSeImm (x : Reg) (nn : Byte) (s : State) : Host.Outcome State Fault Refusal :=
  .next (s.skipIf (s.v x == nn))

/-- SNE Vx, nn (R124). -/
def execSneImm (x : Reg) (nn : Byte) (s : State) : Host.Outcome State Fault Refusal :=
  .next (s.skipIf (s.v x != nn))

/-- SE Vx, Vy (R125). -/
def execSeReg (x y : Reg) (s : State) : Host.Outcome State Fault Refusal :=
  .next (s.skipIf (s.v x == s.v y))

/-- SNE Vx, Vy (R126). -/
def execSneReg (x y : Reg) (s : State) : Host.Outcome State Fault Refusal :=
  .next (s.skipIf (s.v x != s.v y))

/-- JP V0, nnn (R127): the exact sum, no masking; always V0. -/
def execJpV0 (nnn : Addr) (s : State) : Host.Outcome State Fault Refusal :=
  .next (s.jump (addrWord nnn + byteWord (s.v 0)))

end Sys2Proof.Machine
end

