-- ==== Sys2Proof/Machine/Display.lean ====
section
/-! DEFINITION. The framebuffer writer and the collision detector: CLS and DRW (43_display.md, R170 to R178). -/

namespace Sys2Proof.Machine

/-- The pixel at row `r` and column `c` (R11, R170). -/
def Display.pixel (d : Display) (r : Fin 32) (c : Fin 64) : Bool := (d[r.val])[c.val]

/-- disp[r][c] <- disp[r][c] ^ 1 (R172, R174). -/
def Display.flip (d : Display) (r : Fin 32) (c : Fin 64) : Display :=
  d.set r.val ((d[r.val]).set c.val (!Display.pixel d r c))

/-- The display with every pixel 0 (R171). -/
def Display.clear : Display := Vector.replicate 32 (Vector.replicate 64 false)

/-- The column a coordinate wraps to (R172: `(cx + c) mod 64`, R175). -/
def column (n : Nat) : Fin 64 := Fin.ofNat 64 n

/-- The row a coordinate wraps to (R172: `(cy + r) mod 32`, R175). -/
def row (n : Nat) : Fin 32 := Fin.ofNat 32 n

/-- What a draw has done so far: the display, and whether a set pixel was cleared (R173). -/
structure Drawing where
  disp : Display
  hit  : Bool
  deriving DecidableEq, Repr

/-- One bit of a sprite at a pixel: a 1 flips it, and flipping a set pixel is a collision (R172, R173). -/
def Drawing.bit (g : Drawing) (r : Fin 32) (c : Fin 64) (bit : Bool) : Drawing :=
  if bit then { disp := Display.flip g.disp r c, hit := g.hit || Display.pixel g.disp r c } else g

/-- Bit `c` of a sprite row, counted from the left: "most significant first" (R172, R38). -/
def spriteBit (b : Byte) (c : Nat) : Bool := b.getLsbD (7 - c)

/-- The first `k` columns of a sprite row, left to right (R172). -/
def Drawing.bits (g : Drawing) (cx : Nat) (r : Fin 32) (b : Byte) : Nat → Drawing
  | 0 => g
  | k + 1 => (Drawing.bits g cx r b k).bit r (column (cx + k)) (spriteBit b k)

/-- The rows of a sprite, top to bottom, the first at coordinate `cy` (R172). -/
def Drawing.rows (g : Drawing) (cx cy : Nat) : List Byte → Drawing
  | [] => g
  | b :: bs => Drawing.rows (Drawing.bits g cx (row cy) b 8) cx (cy + 1) bs

/-- CLS (R171): every pixel 0, draw <- 1; VF is not written. -/
def execCls (s : State) : Host.Outcome State Fault Refusal :=
  .next { s with disp := Display.clear, draw := true }.advance

/-- The state after a draw: the display, VF and the draw flag (R172, R176). -/
def State.drawn (s : State) (g : Drawing) : State :=
  { s.setVF (flag g.hit) with disp := g.disp, draw := true }

/-- The drawing DRW makes of the sprite bytes at the coordinates V[x] and V[y] (R172): both are read before VF is written
(D9; log 9). -/
def State.drawSprite (s : State) (x y : Reg) (sprite : List Byte) : Drawing :=
  Drawing.rows { disp := s.disp, hit := false } (s.v x).toNat (s.v y).toNat sprite

/-- DRW Vx, Vy, n (R172): the sprite rows are read under the bound check, which makes no check when n = 0 (D10). -/
def execDrw (x y : Reg) (n : Nat) (s : State) : Host.Outcome State Fault Refusal :=
  .next (s.commit (encode (.drw x y n))
    ((s.readRange s.indexAddr n).map fun sprite => (s.drawn (s.drawSprite x y sprite)).advance))

end Sys2Proof.Machine
end

