-- ==== Sys2Proof/Machine/IndexMemory.lean ====
section
/-! DEFINITION. The index register and memory transfer (45_index_memory.md, R210 to R215). -/

namespace Sys2Proof.Machine

/-- I <- i. -/
def State.setI (s : State) (i : Word) : State := { s with I := i }

/-- LD I, nnn (R210). -/
def execLdI (nnn : Addr) (s : State) : Host.Outcome State Fault Refusal :=
  .next (s.setI (addrWord nnn)).advance

/-- ADD I, Vx (R211): the 16-bit sum to I (D11), then the range flag of the new I to VF. -/
def execAddI (x : Reg) (s : State) : Host.Outcome State Fault Refusal :=
  .next ((s.setI (s.I + byteWord (s.v x))).setVF (rangeFlag (s.I + byteWord (s.v x)))).advance

/-- LD F, Vx (R212): I <- V[x] * 5, the whole register. -/
def execLdF (x : Reg) (s : State) : Host.Outcome State Fault Refusal :=
  .next (s.setI (byteWord (s.v x) * 5)).advance

/-- The three decimal digits of a byte: hundreds, tens, ones (R213). -/
def decimalDigits (v : Byte) : List Byte := [v / 100, v / 10 % 10, v % 10]

/-- LD B, Vx (R213). -/
def execLdB (x : Reg) (s : State) : Host.Outcome State Fault Refusal :=
  .next (s.commit (encode (.ldB x)) ((s.writeRange s.indexAddr (decimalDigits (s.v x))).map State.advance))

/-- LD [I], Vx (R214): I is unchanged (C11). -/
def execLdMemVx (x : Reg) (s : State) : Host.Outcome State Fault Refusal :=
  .next (s.commit (encode (.ldMemVx x)) ((s.writeRange s.indexAddr (s.regsUpTo x)).map State.advance))

/-- LD Vx, [I] (R215): I is unchanged (C11). -/
def execLdVxMem (x : Reg) (s : State) : Host.Outcome State Fault Refusal :=
  .next (s.commit (encode (.ldVxMem x))
    ((s.readRange s.indexAddr (x.toNat + 1)).map fun bytes => (s.setRegsFrom 0 bytes).advance))

end Sys2Proof.Machine
end

