-- ==== Sys2Proof/Machine/KeysTimers.lean ====
section
/-! DEFINITION. Keypad and timer instructions (44_keys_timers.md, R190 to R195). -/

namespace Sys2Proof.Machine

/-- keys[k] = 1: key `k` is pressed in this cycle's snapshot (R35). -/
def State.keyDown (s : State) (k : Nat) : Bool := s.host.keys.getLsbD k

/-- The common form of the key skips (R190, R191): KeyIndexFault when V[x] > 15 (R233, D7), else a skip on the key being in
the state `want`. -/
def State.keySkip (s : State) (w : Word) (x : Reg) (want : Bool) : State :=
  if 15 < (s.v x).toNat then s.raise .keyIndex (some w) (some (byteWord (s.v x)))
  else s.skipIf (s.keyDown (s.v x).toNat == want)

/-- SKP Vx (R190). -/
def execSkp (x : Reg) (s : State) : Host.Outcome State Fault Refusal :=
  .next (s.keySkip (encode (.skp x)) x true)

/-- SKNP Vx (R191). -/
def execSknp (x : Reg) (s : State) : Host.Outcome State Fault Refusal :=
  .next (s.keySkip (encode (.sknp x)) x false)

/-- LD Vx, DT (R192). -/
def execLdVxDT (x : Reg) (s : State) : Host.Outcome State Fault Refusal :=
  .next (s.setV x s.DT).advance

/-- LD Vx, K (R193): the wait begins; V[x] is written by the cycle that resolves it (R101), and this cycle scans no key
(R111). -/
def execLdVxK (x : Reg) (s : State) : Host.Outcome State Fault Refusal :=
  .next { s with mode := .awaitingKey, waitReg := x }.advance

/-- LD DT, Vx (R194). -/
def execLdDTVx (x : Reg) (s : State) : Host.Outcome State Fault Refusal :=
  .next { s with DT := s.v x }.advance

/-- LD ST, Vx (R195). -/
def execLdSTVx (x : Reg) (s : State) : Host.Outcome State Fault Refusal :=
  .next { s with ST := s.v x }.advance

end Sys2Proof.Machine
end

