-- ==== Sys2Proof/Machine/HostInterface.lean ====
section
/-! DEFINITION. The host's side of the core: the transactions other than run_cycle, and the outputs the host may read
(60_exceptions.md sections 5 to 7, 70_reset_and_hazards.md sections 1 and 2). -/

namespace Sys2Proof.Machine

/-- The reset state of a machine whose FONT is `font` (R39, R260): memory zeroed, FONT loaded at 0x000, and every other piece
of state as in State.reset, which is this state for the default FONT. -/
def State.resetWith (font : Font) : State :=
  { State.reset with font := font, mem := Memory.writeBytes [] 0 font.toList }

/-- initialize (R260): every piece of the core's state at its reset value, in any mode, FAULTED included. The machine's FONT
is what it is (R8), and what the host has queued stays the host's (log 2). -/
def State.initCore (s : State) : State :=
  { State.resetWith s.font with host := { s.host with loadable := true } }

/-- A transaction other than initialize has been issued: load_program may no longer come next (R264; log 5). -/
def State.settled (s : State) : State := { s with host := { s.host with loadable := false } }

/-- load_program(bytes) (R263), refused where R264 gives it no meaning (log 5). -/
def loadProgram (bytes : List Byte) (s : State) : Host.Outcome State Fault Refusal :=
  if s.host.loadable then
    if bytes.length ≤ 0xE00 then .next { s.settled with mem := Memory.writeBytes s.mem 0x200 bytes }
    else .refused (.imageTooLong bytes.length)
  else .refused .loadNotAfterInitialize

/-- One timer at a tick: down by one, stopping at zero (R243, D13). -/
def countDown (t : Byte) : Byte := if t = 0 then 0 else t - 1

/-- tick (R243): both timers, in RUNNING and AWAITING_KEY; nothing in FAULTED (R244). -/
def State.tick (s : State) : State :=
  if s.mode = .faulted then s else { s with DT := countDown s.DT, ST := countDown s.ST }

/-- ack_draw (R251): draw <- 0 in every mode. -/
def State.ackDraw (s : State) : State := { s with draw := false }

/-- The sound output (R245). -/
def State.soundActive (s : State) : Bool := s.ST != 0

/-- The outputs the host may read between transactions (R250), and wait_reg. DESIGN CHOICE: the table of R37 gives the host
read access to wait_reg and the list of R250 does not name it; the model follows the table (log 20). -/
structure Outputs where
  display     : List Byte
  draw        : Bool
  soundActive : Bool
  DT          : Byte
  ST          : Byte
  mode        : Mode
  waitReg     : Reg
  fault       : Option FaultRecord
  deriving DecidableEq, Repr

/-- The display buffer as the host reads it: 2048 bytes, each 0 or 1, row-major (R31, R250). -/
def State.displayBytes (s : State) : List Byte :=
  s.disp.toList.flatMap fun line => line.toList.map fun px => if px then 1 else 0

/-- What the host reads (R250; R37 for wait_reg, log 20). -/
def State.outputs (s : State) : Outputs :=
  { display := s.displayBytes, draw := s.draw, soundActive := s.soundActive, DT := s.DT, ST := s.ST, mode := s.mode,
    waitReg := s.waitReg, fault := s.fault }

/-- What run_cycle returns to its caller: ok, or the fault record (R108). -/
inductive CycleResult where
  | ok
  | fault (record : FaultRecord)
  deriving DecidableEq, Repr

/-- What the run_cycle that ended in this state returns (R107, R108): the record exactly when there is one. -/
def State.cycleResult (s : State) : CycleResult :=
  match s.fault with
  | none => .ok
  | some record => .fault record

/-- The number of a fault kind in the record (R230 to R233, D6). -/
def FaultKind.code : FaultKind → Nat
  | .decode => 1
  | .stack => 2
  | .memoryBound => 3
  | .keyIndex => 4

end Sys2Proof.Machine
end

