-- ==== Sys2Proof/Machine/Cycle.lean ====
section
/-! DEFINITION. run_cycle (40_pipeline.md): fetch, decode, execute, and the key-wait; and the choice of the transaction a
step performs. -/

namespace Sys2Proof.Machine

/-- fetch(p) (R103): the word at pc, most significant byte first (R54), or the address the bound check reports. -/
def State.fetch (s : State) : Except Word Word :=
  (s.readRange s.pc.toNat 2).map fun
    | hi :: lo :: _ => wordOfBytes hi lo
    | _ => 0

/-- The lowest pressed key of a snapshot (R101). -/
def firstPressed (keys : Keys) : Option Nat := (List.range 16).find? fun k => keys.getLsbD k

/-- resolve_wait (R101): the first pressed key, in ascending order, goes to V[wait_reg] and the mode to RUNNING; with no key
pressed nothing changes. pc is not changed and no instruction executes. -/
def State.resolveWait (s : State) : State :=
  match firstPressed s.host.keys with
  | some k => { s.setV s.waitReg (BitVec.ofNat 8 k) with mode := .running }
  | none => s

/-- step(keys, rnd) of R102: fetch, decode, execute. The inputs are already in the host's side. -/
def runInstruction (s : State) : Host.Outcome State Fault Refusal :=
  match s.fetch with
  | .error bad => .next (s.raise .memoryBound none (some bad))
  | .ok w =>
    match decode w with
    | .illegal _ => .next (s.raise .decode (some w) none)
    | .instr i => exec i s

/-- The start of a cycle: its inputs, fixed for its whole duration (R109). -/
def State.beginCycle (s : State) (keys : Keys) (rnd : Byte) : State :=
  { s with host := { s.host with keys := keys, rnd := rnd, loadable := false } }

/-- run_cycle(keys, rnd) (R100) once its inputs are in place: FAULTED changes nothing (R107), AWAITING_KEY scans the keys
(R101), RUNNING runs one instruction (R102). -/
def cycle (s : State) : Host.Outcome State Fault Refusal :=
  match s.mode with
  | .faulted => .next s
  | .awaitingKey => .next s.resolveWait
  | .running => runInstruction s

/-- One transaction of the host (R247, R248). -/
def perform (t : Transaction) (s : State) : Host.Outcome State Fault Refusal :=
  match t with
  | .init => .next s.initCore
  | .loadProgram bytes => loadProgram bytes s
  | .runCycle keys rnd => cycle (s.beginCycle keys rnd)
  | .tick => .next s.settled.tick
  | .ackDraw => .next s.settled.ackDraw

/-- The transaction the host issues next: the first it queued, or, when none is queued, a free one (R247; logs 2 and 3). -/
def State.nextTransaction (s : State) : Transaction :=
  match s.host.pending with
  | t :: _ => t
  | [] => Config.freeTransaction s.host.draws

/-- The state with its next transaction taken: off the queue, or one more free draw made. -/
def State.takeTransaction (s : State) : State :=
  match s.host.pending with
  | _ :: rest => { s with host := { s.host with pending := rest } }
  | [] => { s with host := { s.host with draws := s.host.draws + 1 } }

/-- The state made ready so that the next transaction is a run_cycle that fetches: RUNNING with no fault, a run_cycle next,
its inputs free where the host queued none, and pc where a word can be fetched (log 14). Where all that holds already,
nothing changes. -/
def State.readyToFetch (s : State) : State :=
  { s with
    pc := if s.pc.toNat ≤ 0xFFE then s.pc else 0x200
    mode := .running
    fault := none
    host := { s.host with
      pending := match s.host.pending with
        | .runCycle keys rnd :: rest => .runCycle keys rnd :: rest
        | _ => [.runCycle (Config.freeKeys s.host.draws) (Config.freeRnd s.host.draws)] } }

/-- A word stored where pc points, as memory holds it (R54; log 14). -/
def State.storeAtPc (s : State) (w : Word) : State :=
  { s with mem := Memory.writeBytes s.mem s.pc.toNat (bytesOfWord w) }

end Sys2Proof.Machine
end

