-- ==== Sys2Proof/Machine/Step.lean ====
section
/-! DEFINITION. One step of the machine: one transaction of the host (R247). -/

namespace Sys2Proof.Machine

/-- One step: "A model treats each transaction as one step" (R247). -/
def step (s : State) : Host.Outcome State Fault Refusal :=
  perform s.nextTransaction s.takeTransaction

/-- The state with the instruction of a table row stored where the next step fetches: bit 0 of `w` is the least significant
bit of the one 16-bit word, and bits above `nbits` are 0 (R70, R54). It stands for loading a program (log 14). -/
def State.withFetchWord (s : State) (nbits w : Nat) : State :=
  s.readyToFetch.storeAtPc (BitVec.ofNat 16 (w % 2 ^ nbits))

end Sys2Proof.Machine
end

