-- ==== Sys2Proof/Safety.lean ====
section
/-! DEFINITION. The terms claims are stated in: the invariant of R40, what a good run is, what an instruction leaves
unchanged, the fault table of R234, and the sprite pixels of R172. -/

namespace Sys2Proof.Machine

/-! ### The invariant -/

/-- FAULTED and a fault record go together (R34, R40). -/
abbrev State.faultConsistent (s : State) : Prop := s.fault.isSome = true ↔ s.mode = .faulted

/-- Every stack entry is at most 0x1000, the highest return address a CALL pushes (R23, R122). -/
abbrev State.stackBounded (s : State) : Prop := ∀ k : Fin 16, (s.stack[k.val]).toNat ≤ 0x1000

/-- The parts of R40 that the types do not give, pc ≤ 0x10FE (R23) and a fault record exactly in FAULTED (R34), with two parts
that R40 does not name: stack entries ≤ 0x1000 (R23, R122), which pc needs, and memory in the model's own canonical form
(log 10). The other parts of R40 (sp ≤ 16, byte ranges, pixels 0 or 1,
I ≤ 0xFFFF) hold by the types of State. -/
abbrev State.Inv (s : State) : Prop :=
  Memory.wf s.mem ∧ s.pc.toNat ≤ 0x10FE ∧ s.stackBounded ∧ s.faultConsistent

/-- A state a good run is in: not FAULTED, which is "never a good final state" (R271). -/
abbrev State.good (s : State) : Prop := s.mode ≠ .faulted

/-! ### What stays as it was, from `s` to `t` -/

/-- Every byte of memory reads as before. -/
abbrev State.keepsMemory (s t : State) : Prop := ∀ a, Memory.read t.mem a = Memory.read s.mem a

/-- Every general register but those listed is as before. -/
abbrev State.keepsRegsBut (s t : State) (changed : List Reg) : Prop := ∀ y, y ∉ changed → t.v y = s.v y

/-- sp and every stack entry are as before. -/
abbrev State.keepsStack (s t : State) : Prop := t.sp = s.sp ∧ t.stack = s.stack

/-- Both timers are as before. -/
abbrev State.keepsTimers (s t : State) : Prop := t.DT = s.DT ∧ t.ST = s.ST

/-- Every pixel and the draw flag are as before. -/
abbrev State.keepsDisplay (s t : State) : Prop := t.disp = s.disp ∧ t.draw = s.draw

/-- mode, wait_reg and the fault record are as before. -/
abbrev State.keepsControl (s t : State) : Prop := t.mode = s.mode ∧ t.waitReg = s.waitReg ∧ t.fault = s.fault

/-- The frame of an instruction that writes only the general registers listed, and pc. -/
abbrev State.registerFrame (s t : State) (changed : List Reg) : Prop :=
  s.keepsRegsBut t changed ∧ t.I = s.I ∧ s.keepsMemory t ∧ s.keepsStack t ∧ s.keepsTimers t ∧ s.keepsDisplay t ∧
    s.keepsControl t ∧ t.host = s.host

/-- The core's state is as before; only the host's side may differ (R20). -/
abbrev State.sameCore (s t : State) : Prop := t = { s with host := t.host }

/-! ### Faults -/

/-- The state a fault leaves (R237): the record stored, FAULTED, nothing else changed. -/
abbrev State.faultedWith (s : State) (kind : FaultKind) (word addr : Option Word) : State :=
  { s with mode := .faulted, fault := some { kind := kind, pc := s.pc, word := word, addr := addr } }

/-- The first address above 0xFFF of a range that starts at `a` and passes 0xFFF (R55). -/
def firstBeyond (a : Word) : Word := if 0xFFF < a.toNat then a else 0x1000

/-- The table of R234: the fault an instruction raises in a state, with the address its record holds. -/
def faultOf (i : Instr) (s : State) : Option (FaultKind × Option Word) :=
  match i with
  | .ret => if s.sp.val = 0 then some (.stack, none) else none
  | .call _ => if s.sp.val = 16 then some (.stack, none) else none
  | .drw _ _ n =>
    if 0 < n ∧ 0xFFF < s.I.toNat + n - 1 then some (.memoryBound, some (firstBeyond s.I)) else none
  | .ldB _ => if 0xFFF < s.I.toNat + 2 then some (.memoryBound, some (firstBeyond s.I)) else none
  | .ldMemVx x => if 0xFFF < s.I.toNat + x.toNat then some (.memoryBound, some (firstBeyond s.I)) else none
  | .ldVxMem x => if 0xFFF < s.I.toNat + x.toNat then some (.memoryBound, some (firstBeyond s.I)) else none
  | .skp x => if 15 < (s.v x).toNat then some (.keyIndex, some (byteWord (s.v x))) else none
  | .sknp x => if 15 < (s.v x).toNat then some (.keyIndex, some (byteWord (s.v x))) else none
  | .cls => none
  | .jp _ => none
  | .seImm _ _ => none
  | .sneImm _ _ => none
  | .seReg _ _ => none
  | .ldImm _ _ => none
  | .addImm _ _ => none
  | .ldReg _ _ => none
  | .orReg _ _ => none
  | .andReg _ _ => none
  | .xorReg _ _ => none
  | .addReg _ _ => none
  | .subReg _ _ => none
  | .shr _ _ => none
  | .subnReg _ _ => none
  | .shl _ _ => none
  | .sneReg _ _ => none
  | .ldI _ => none
  | .jpV0 _ => none
  | .rnd _ _ => none
  | .ldVxDT _ => none
  | .ldVxK _ => none
  | .ldDTVx _ => none
  | .ldSTVx _ => none
  | .addI _ => none
  | .ldF _ => none

/-! ### What a store leaves for a fetch -/

/-- The byte at `a`, as a number, after `len` bytes were stored from `base`, byte `k` of them being `stored k`: that byte
inside the range, the byte from before outside it (R59, R63). -/
def State.byteAfterStore (s : State) (base len : Nat) (stored : Nat → Nat) (a : Nat) : Nat :=
  if base ≤ a ∧ a < base + len then stored (a - base) else (Memory.read s.mem a).toNat

/-- The word at `a`, most significant byte first, after the same store (R54, R63). -/
def State.wordAfterStore (s : State) (base len : Nat) (stored : Nat → Nat) (a : Nat) : Nat :=
  s.byteAfterStore base len stored a * 256 + s.byteAfterStore base len stored (a + 1)

/-- Byte `k` of the three LD B stores: the hundreds, tens and ones of V[x] (R213). -/
def State.bcdByte (s : State) (x : Reg) (k : Nat) : Nat :=
  if k = 0 then (s.v x).toNat / 100 else if k = 1 then (s.v x).toNat / 10 % 10 else (s.v x).toNat % 10

/-! ### Reset and sprites -/

/-- The reset values of R39, field by field, FONT being the machine's own (R8). -/
def State.hasResetValues (t : State) : Prop :=
  (∀ a (h : a < 0x50), Memory.read t.mem a = t.font[a]) ∧
  (∀ a, 0x50 ≤ a → a < 0x1000 → Memory.read t.mem a = 0) ∧
  (∀ x, t.v x = 0) ∧ t.I = 0 ∧ t.pc = 0x200 ∧ t.sp.val = 0 ∧ (∀ k : Fin 16, t.stack[k.val] = 0) ∧
  t.DT = 0 ∧ t.ST = 0 ∧ (∀ r c, Display.pixel t.disp r c = false) ∧ t.draw = false ∧ t.mode = .running ∧
  t.waitReg = 0 ∧ t.fault = none

/-- DRW Vx, Vy, n has a 1 bit for the pixel at row `r` and column `c`: some row `k` and column `j` of the sprite wrap to it,
and bit 7 - j of the byte at I + k is 1 (R172). -/
abbrev State.spriteCovers (s : State) (x y : Reg) (n : Nat) (r : Fin 32) (c : Fin 64) : Prop :=
  ∃ k < n, ∃ j < 8, ((s.v y).toNat + k) % 32 = r.val ∧ ((s.v x).toNat + j) % 64 = c.val ∧
    (Memory.read s.mem (s.I.toNat + k)).getLsbD (7 - j) = true

end Sys2Proof.Machine
end

