-- ==== Sys2Proof/Certificates/Slice0/Obligations.lean ====
section
/-! DEFINITION. The statements for the provers, each formalising rules of the spec. `s.v x` is V[x]; `exec i s` is the
execute stage at the state whose pc is p; a fault is a next state (R237, log 1). -/

open Sys2Proof Sys2Proof.Machine

/-! ### Decoding and encoding -/

/-- Every well-formed instruction's word decodes to it, with every operand at every value: no bit of an encoding is
dropped (R71, R72, R75). -/
def Obligations.DecodeEncode : Prop :=
  ∀ i : Instr, i.WellFormed = true → decode (encode i) = .instr i

/-- Every word that decodes is the word of what it decodes to, which is well-formed (R70, R71). The model keeps the field y
that SHR and SHL do not read in their terms (log 11), so words that R79 makes one instruction decode to terms apart. -/
def Obligations.EncodeDecode : Prop :=
  ∀ (w : Word) (i : Instr), decode w = .instr i → i.WellFormed = true ∧ encode i = w

/-- R74: a word decodes to the instruction of a row exactly when it matches the row's mask; the 34 rows are disjoint; and a
running cycle that fetches a word matching none raises DecodeFault(p, w). -/
def Obligations.DecodeByMaskAndMatch : Prop :=
  (∀ (w : Word) (i : Instr), decode w = .instr i → i.row ∈ opcodeMap ∧ w &&& i.row.mask = i.row.pattern) ∧
  (∀ (w : Word) (r : OpcodeRow), r ∈ opcodeMap → w &&& r.mask = r.pattern →
    ∃ i, decode w = .instr i ∧ i.row = r) ∧
  opcodeMap.length = 34 ∧
  (∀ (w : Word) (r r' : OpcodeRow), r ∈ opcodeMap → r' ∈ opcodeMap → w &&& r.mask = r.pattern →
    w &&& r'.mask = r'.pattern → r = r') ∧
  (∀ (s : State) (w : Word), s.mode = .running → s.fetch = .ok w →
    (∀ r ∈ opcodeMap, w &&& r.mask ≠ r.pattern) → cycle s = .next (s.faultedWith .decode (some w) none))

/-- R77 and R230: exactly the listed words are illegal, group by group, and a running cycle that fetches one raises
DecodeFault, kind code 1, with pc = p, word = w and no address, and returns that record. -/
def Obligations.IllegalWords : Prop :=
  FaultKind.decode.code = 1 ∧
  (∀ w : Word, (∃ why, decode w = .illegal why) ↔
    (w.toNat / 4096 = 0x0 ∧ w.toNat ≠ 0x00E0 ∧ w.toNat ≠ 0x00EE) ∨
    (w.toNat / 4096 = 0x5 ∧ w.toNat % 16 ≠ 0) ∨
    (w.toNat / 4096 = 0x8 ∧ w.toNat % 16 ∈ [0x8, 0x9, 0xA, 0xB, 0xC, 0xD, 0xF]) ∨
    (w.toNat / 4096 = 0x9 ∧ w.toNat % 16 ≠ 0) ∨
    (w.toNat / 4096 = 0xE ∧ w.toNat % 256 ∉ [0x9E, 0xA1]) ∨
    (w.toNat / 4096 = 0xF ∧ w.toNat % 256 ∉ [0x07, 0x0A, 0x15, 0x18, 0x1E, 0x29, 0x33, 0x55, 0x65])) ∧
  (∀ (s : State) (w : Word) (why : Reject), s.mode = .running → s.fetch = .ok w → decode w = .illegal why →
    cycle s = .next (s.faultedWith .decode (some w) none) ∧
      (s.faultedWith .decode (some w) none).cycleResult = .fault ⟨.decode, s.pc, some w, none⟩)

/-- Words written out from R71 and R75, at least one for each family, decode to what they stand for. -/
def Obligations.DecodeSampleWords : Prop :=
  decode 0x1AAA = .instr (.jp 0xAAA) ∧ decode 0x2555 = .instr (.call 0x555) ∧ decode 0xA123 = .instr (.ldI 0x123) ∧
  decode 0x8AB5 = .instr (.subReg 0xA 0xB) ∧ decode 0xD125 = .instr (.drw 1 2 5) ∧ decode 0xE3A1 = .instr (.sknp 3) ∧
  decode 0xFC65 = .instr (.ldVxMem 0xC)

/-- R78: of the 65536 words 43954 decode and 21582 do not, group by group as the rule counts them. -/
def Obligations.LegalWordCount : Prop :=
  (List.range 65536).countP (fun k => (decodeTableWord 16 k).isSome) = 43954 ∧
  (List.range 65536).countP (fun k => (decodeTableWord 16 k).isNone) = 21582 ∧
  (∀ g ∈ [0x1, 0x2, 0x3, 0x4, 0x6, 0x7, 0xA, 0xB, 0xC, 0xD],
    (List.range 4096).countP (fun k => (decodeTableWord 16 (g * 4096 + k)).isSome) = 4096) ∧
  (List.range 4096).countP (fun k => (decodeTableWord 16 k).isSome) = 2 ∧
  (∀ g ∈ [0x5, 0x9], (List.range 4096).countP (fun k => (decodeTableWord 16 (g * 4096 + k)).isSome) = 256) ∧
  (List.range 4096).countP (fun k => (decodeTableWord 16 (0x8 * 4096 + k)).isSome) = 2304 ∧
  (List.range 4096).countP (fun k => (decodeTableWord 16 (0xE * 4096 + k)).isSome) = 32 ∧
  (List.range 4096).countP (fun k => (decodeTableWord 16 (0xF * 4096 + k)).isSome) = 144

/-! ### The cycle -/

/-- A step runs the decoded instruction: when the host's next transaction is a run_cycle, the mode is RUNNING and the two
bytes at pc decode to `i`, step is exec of `i` at the state with that transaction taken and its inputs in place; that
state's core is the one before (R100, R102, R105). -/
def Obligations.StepRunsDecoded : Prop :=
  ∀ (s : State) (keys : Keys) (rnd : Byte) (i : Instr), s.nextTransaction = .runCycle keys rnd → s.mode = .running →
    s.pc.toNat ≤ 0xFFE →
    decode (wordOfBytes (Memory.read s.mem s.pc.toNat) (Memory.read s.mem (s.pc.toNat + 1))) = .instr i →
    step s = exec i (s.takeTransaction.beginCycle keys rnd) ∧
      s.sameCore (s.takeTransaction.beginCycle keys rnd) ∧
      (s.takeTransaction.beginCycle keys rnd).host.keys = keys ∧
      (s.takeTransaction.beginCycle keys rnd).host.rnd = rnd

/-- R103: a fetch above 0x0FFE raises MemoryBoundFault with no word and the first out-of-range byte's address, and does not
change pc; at or below it, it reads the word big-endian. -/
def Obligations.FetchBounds : Prop :=
  ∀ s : State,
    (0x0FFE < s.pc.toNat → s.mode = .running →
      cycle s = .next (s.faultedWith .memoryBound none (some (if 0x1000 ≤ s.pc.toNat then s.pc else 0x1000)))) ∧
    (s.pc.toNat ≤ 0x0FFE → ∃ w, s.fetch = .ok w ∧
      w.toNat = (Memory.read s.mem s.pc.toNat).toNat * 256 + (Memory.read s.mem (s.pc.toNat + 1)).toNat)

/-- R55: a range read or write that passes 0xFFF is refused with the first address above it and writes nothing; any other
reads or writes its bytes in order; an empty range makes no check. -/
def Obligations.BoundsBeforeAccess : Prop :=
  ∀ (s : State) (a : Word) (len : Nat) (bs : List Byte),
    (0 < len ∧ 0xFFF < a.toNat + len - 1 → s.readRange a.toNat len = .error (firstBeyond a)) ∧
    (len = 0 ∨ a.toNat + len - 1 ≤ 0xFFF → ∃ out, s.readRange a.toNat len = .ok out ∧ out.length = len ∧
      ∀ k, k < len → out[k]? = some (Memory.read s.mem (a.toNat + k))) ∧
    (0 < bs.length ∧ 0xFFF < a.toNat + bs.length - 1 → s.writeRange a.toNat bs = .error (firstBeyond a)) ∧
    (bs.length = 0 ∨ a.toNat + bs.length - 1 ≤ 0xFFF → ∃ t, s.writeRange a.toNat bs = .ok t ∧
      t = { s with mem := t.mem } ∧ (∀ k b, bs[k]? = some b → Memory.read t.mem (a.toNat + k) = b) ∧
      ∀ c, c < a.toNat ∨ a.toNat + bs.length ≤ c → Memory.read t.mem c = Memory.read s.mem c)

/-- R101: in AWAITING_KEY a cycle stores the lowest pressed key in V[wait_reg] and returns to RUNNING, changing nothing else;
with no key pressed nothing changes. -/
def Obligations.ResolveWait : Prop :=
  ∀ (s : State) (keys : Keys) (rnd : Byte), s.nextTransaction = .runCycle keys rnd → s.mode = .awaitingKey →
    (∀ k, k < 16 → keys.getLsbD k = true → (∀ j, j < k → keys.getLsbD j = false) →
      ∃ t, step s = .next t ∧ (t.v s.waitReg).toNat = k ∧ t.mode = .running ∧ t.pc = s.pc ∧
        s.keepsRegsBut t [s.waitReg] ∧ t = { s with V := t.V, mode := t.mode, host := t.host }) ∧
    ((∀ k, k < 16 → keys.getLsbD k = false) → ∃ t, step s = .next t ∧ s.sameCore t)

/-- R237: a cycle that raises a fault stores its record, with pc = p, and FAULTED; nothing else changes, and the record is
what run_cycle returns. -/
def Obligations.FaultEntry : Prop :=
  ∀ s t : State, s.mode ≠ .faulted → cycle s = .next t → t.mode = .faulted →
    ∃ r : FaultRecord, r.pc = s.pc ∧ t = { s with mode := .faulted, fault := some r } ∧ t.cycleResult = .fault r

/-- R234 and R235: the fault each instruction raises is the table's, with the record R231 to R233 give, under the kind codes
2, 3 and 4; where the table gives none, the instruction completes without one. -/
def Obligations.FaultTable : Prop :=
  FaultKind.stack.code = 2 ∧ FaultKind.memoryBound.code = 3 ∧ FaultKind.keyIndex.code = 4 ∧
  ∀ (i : Instr) (s : State),
    match faultOf i s with
    | some (kind, addr) => exec i s = .next (s.faultedWith kind (some (encode i)) addr)
    | none => ∃ t, exec i s = .next t ∧ t.fault = s.fault ∧
        (t.mode = s.mode ∨ (∃ x, i = .ldVxK x) ∧ t.mode = .awaitingKey)

/-- R107 and R238: in FAULTED a run_cycle changes nothing and returns the same record, a tick changes nothing, an
acknowledge clears the draw flag alone, and only initialize leaves FAULTED. -/
def Obligations.FaultedIsSticky : Prop :=
  ∀ s : State, s.mode = .faulted →
    (∀ keys rnd, s.nextTransaction = .runCycle keys rnd → ∃ t, step s = .next t ∧ s.sameCore t ∧
      ∀ r, s.fault = some r → t.cycleResult = .fault r) ∧
    (s.nextTransaction = .tick → ∃ t, step s = .next t ∧ s.sameCore t) ∧
    (s.nextTransaction = .ackDraw → ∃ t, step s = .next t ∧ t = { s with draw := false, host := t.host }) ∧
    (s.nextTransaction = .init → ∃ t, step s = .next t ∧ t.mode = .running ∧ t.fault = none) ∧
    (∀ t, step s = .next t → t.mode ≠ .faulted → s.nextTransaction = .init)

/-! ### The other transactions -/

/-- R243 and R244: a tick counts each timer down by one, stopping at zero, in RUNNING and AWAITING_KEY; in FAULTED it
changes nothing. Nothing else changes. -/
def Obligations.TickCountsDown : Prop :=
  ∀ s : State, s.nextTransaction = .tick → ∃ t, step s = .next t ∧
    t = { s with DT := t.DT, ST := t.ST, host := t.host } ∧
    (s.mode = .faulted → t.DT = s.DT ∧ t.ST = s.ST) ∧
    (s.mode ≠ .faulted → t.DT.toNat = s.DT.toNat - 1 ∧ t.ST.toNat = s.ST.toNat - 1)

/-- R251: ack_draw clears the draw flag in every mode and changes nothing else. -/
def Obligations.AckDrawClears : Prop :=
  ∀ s : State, s.nextTransaction = .ackDraw → ∃ t, step s = .next t ∧
    t.draw = false ∧ t = { s with draw := t.draw, host := t.host }

/-- R39 and R260: initialize, from any state in any mode, gives every piece of state its reset value, FONT being whatever the
machine's 80 bytes are (R8). -/
def Obligations.InitializeResets : Prop :=
  ∀ s : State, s.nextTransaction = .init → ∃ t, step s = .next t ∧ t.hasResetValues ∧ t.font = s.font

/-- R39: State.reset, and the reset state of a machine with any other FONT, hold the reset values. -/
def Obligations.ResetValues : Prop :=
  State.reset.hasResetValues ∧ ∀ font : Font, (State.resetWith font).hasResetValues ∧ (State.resetWith font).font = font

/-- FONT is a parameter of the machine, not state (R8, D16): no step changes it, whatever the transaction. -/
def Obligations.FontIsFixed : Prop :=
  ∀ s t : State, step s = .next t → t.font = s.font

/-- R263: load_program, as the next transaction after initialize and with an image of at most 0xE00 bytes, copies the image
to 0x200 and up and changes nothing else. -/
def Obligations.LoadProgramCopies : Prop :=
  ∀ (s s1 : State) (bytes : List Byte), s.nextTransaction = .init → step s = .next s1 →
    s1.nextTransaction = .loadProgram bytes → bytes.length ≤ 0xE00 →
    ∃ t, step s1 = .next t ∧ t = { s1 with mem := t.mem, host := t.host } ∧
      (∀ k b, bytes[k]? = some b → Memory.read t.mem (0x200 + k) = b) ∧
      ∀ a, a < 0x200 ∨ 0x200 + bytes.length ≤ a → Memory.read t.mem a = Memory.read s1.mem a

/-- R264: after any step, a load_program is refused exactly when that step was not initialize or the image is longer than
0xE00 bytes. -/
def Obligations.LoadProgramRefused : Prop :=
  ∀ (s s1 : State) (bytes : List Byte), step s = .next s1 → s1.nextTransaction = .loadProgram bytes →
    (s.nextTransaction ≠ .init ∨ 0xE00 < bytes.length ↔ ∃ r, step s1 = .refused r)

/-- The core never stops by itself (R271): every transaction but a load_program answers a next state, and no step answers a
fault. -/
def Obligations.CoreNeverStops : Prop :=
  (∀ s : State, (∀ bytes, s.nextTransaction ≠ .loadProgram bytes) → ∃ t, step s = .next t) ∧
  (∀ (s : State) (r : Refusal), step s = .refused r → ∃ bytes, s.nextTransaction = .loadProgram bytes)

/-- The host's transactions are serialized, one a step, in the order it queued them, and after those every order is open (R247;
how the model holds them is its own choice, logs 2 and 3): a step takes the first of the queue and leaves the rest; with
none queued it takes the next free one. -/
def Obligations.OneTransactionPerStep : Prop :=
  (∀ (s : State) (tr : Transaction) (rest : List Transaction), s.host.pending = tr :: rest → s.nextTransaction = tr) ∧
  (∀ s : State, s.host.pending = [] → s.nextTransaction = Config.freeTransaction s.host.draws) ∧
  (∀ s t : State, step s = .next t → t.host.pending = s.host.pending.tail ∧
    t.host.draws = if s.host.pending = [] then s.host.draws + 1 else s.host.draws)

/-- What the host reads (R31, R245, R250): 2048 bytes, row-major, each 0 or 1 as the pixel is; sound_active exactly when ST is
not 0; and the draw flag, timers, mode and fault as they are; with wait_reg, which R37's table lets it read (log 20). -/
def Obligations.HostOutputs : Prop :=
  ∀ s : State, s.outputs.display.length = 2048 ∧
    (∀ (r : Fin 32) (c : Fin 64),
      s.outputs.display[r.val * 64 + c.val]? = some (if Display.pixel s.disp r c then 1 else 0)) ∧
    (s.outputs.soundActive = true ↔ s.ST ≠ 0) ∧ s.outputs.draw = s.draw ∧ s.outputs.DT = s.DT ∧
    s.outputs.ST = s.ST ∧ s.outputs.mode = s.mode ∧ s.outputs.waitReg = s.waitReg ∧
    s.outputs.fault = s.fault

/-! ### Control transfer -/

/-- R120: RET with sp ≠ 0 pops: sp goes down by one, pc becomes the entry, which keeps its value; with sp = 0 it raises
StackFault. Nothing else changes. -/
def Obligations.RetPops : Prop :=
  encode .ret = 0x00EE ∧
  (∀ (s : State) (k : Fin 16), s.sp.val = k.val + 1 → ∃ t, exec .ret s = .next t ∧
    t.sp.val = k.val ∧ t.pc = s.stack[k.val] ∧ t.stack = s.stack ∧
    s.keepsRegsBut t [] ∧ t.I = s.I ∧ s.keepsMemory t ∧ s.keepsTimers t ∧ s.keepsDisplay t ∧ s.keepsControl t ∧
    t.host = s.host) ∧
  (∀ s : State, s.sp.val = 0 → exec .ret s = .next (s.faultedWith .stack (some 0x00EE) none))

/-- R122: CALL with sp < 16 writes p + 2 to stack[sp], increments sp and jumps; every other entry is kept; with sp = 16 it
raises StackFault. Nothing else changes. At every pc a cycle executes at, the pushed value is the exact p + 2, at most
0x1000 (R103; log 13 for the others). -/
def Obligations.CallPushes : Prop :=
  ∀ nnn : Addr, (encode (.call nnn)).toNat = 0x2000 + nnn.toNat ∧
    (∀ (s : State) (k : Fin 16), s.sp.val = k.val → ∃ t, exec (.call nnn) s = .next t ∧
      t.stack[k.val] = s.pc + 2 ∧
      (s.pc.toNat ≤ 0x0FFE → (t.stack[k.val]).toNat = s.pc.toNat + 2 ∧ (t.stack[k.val]).toNat ≤ 0x1000) ∧ (∀ j : Fin 16, j ≠ k → t.stack[j.val] = s.stack[j.val]) ∧
      t.sp.val = k.val + 1 ∧ t.pc.toNat = nnn.toNat ∧
      s.keepsRegsBut t [] ∧ t.I = s.I ∧ s.keepsMemory t ∧ s.keepsTimers t ∧ s.keepsDisplay t ∧ s.keepsControl t ∧
      t.host = s.host) ∧
    (∀ s : State, s.sp.val = 16 →
      exec (.call nnn) s = .next (s.faultedWith .stack (some (encode (.call nnn))) none))

/-- R121 and R127: JP sets pc to nnn, and JP V0 sets pc to the exact sum of nnn and V[0]. Nothing else changes. -/
def Obligations.JumpTargets : Prop :=
  ∀ (nnn : Addr) (s : State),
    (encode (.jp nnn)).toNat = 0x1000 + nnn.toNat ∧ (encode (.jpV0 nnn)).toNat = 0xB000 + nnn.toNat ∧
    (∃ t, exec (.jp nnn) s = .next t ∧ t.pc.toNat = nnn.toNat ∧ s.registerFrame t []) ∧
    (∃ t, exec (.jpV0 nnn) s = .next t ∧ t.pc.toNat = nnn.toNat + (s.v 0).toNat ∧ s.registerFrame t [])

/-- R123 and R124: the immediate skips. Nothing but pc changes. -/
def Obligations.SkipImmediate : Prop :=
  ∀ (x : Reg) (nn : Byte) (s : State),
    (encode (.seImm x nn)).toNat = 0x3000 + x.toNat * 256 + nn.toNat ∧
    (encode (.sneImm x nn)).toNat = 0x4000 + x.toNat * 256 + nn.toNat ∧
    (∃ t, exec (.seImm x nn) s = .next t ∧ t.pc = (if s.v x = nn then s.pc + 4 else s.pc + 2) ∧
      s.registerFrame t []) ∧
    (∃ t, exec (.sneImm x nn) s = .next t ∧ t.pc = (if s.v x ≠ nn then s.pc + 4 else s.pc + 2) ∧
      s.registerFrame t [])

/-- R125 and R126: the register skips. Nothing but pc changes. -/
def Obligations.SkipRegister : Prop :=
  ∀ (x y : Reg) (s : State),
    (encode (.seReg x y)).toNat = 0x5000 + x.toNat * 256 + y.toNat * 16 ∧
    (encode (.sneReg x y)).toNat = 0x9000 + x.toNat * 256 + y.toNat * 16 ∧
    (∃ t, exec (.seReg x y) s = .next t ∧ t.pc = (if s.v x = s.v y then s.pc + 4 else s.pc + 2) ∧
      s.registerFrame t []) ∧
    (∃ t, exec (.sneReg x y) s = .next t ∧ t.pc = (if s.v x ≠ s.v y then s.pc + 4 else s.pc + 2) ∧
      s.registerFrame t [])

/-! ### Register ALU -/

/-- R140 and R141: LD Vx, nn and ADD Vx, nn write Vx alone; the sum wraps mod 256 and no flag changes. -/
def Obligations.ImmediateForms : Prop :=
  ∀ (x : Reg) (nn : Byte) (s : State),
    (encode (.ldImm x nn)).toNat = 0x6000 + x.toNat * 256 + nn.toNat ∧
    (encode (.addImm x nn)).toNat = 0x7000 + x.toNat * 256 + nn.toNat ∧
    (∃ t, exec (.ldImm x nn) s = .next t ∧ t.v x = nn ∧ t.pc = s.pc + 2 ∧ s.registerFrame t [x]) ∧
    (∃ t, exec (.addImm x nn) s = .next t ∧ (t.v x).toNat = ((s.v x).toNat + nn.toNat) % 256 ∧ t.pc = s.pc + 2 ∧
      s.registerFrame t [x])

/-- R142 to R145: copy, OR, AND and XOR write Vx alone, bit by bit; VF is written only as the destination. -/
def Obligations.LogicForms : Prop :=
  ∀ (x y : Reg) (s : State),
    (encode (.ldReg x y)).toNat = 0x8000 + x.toNat * 256 + y.toNat * 16 ∧
    (encode (.orReg x y)).toNat = 0x8001 + x.toNat * 256 + y.toNat * 16 ∧
    (encode (.andReg x y)).toNat = 0x8002 + x.toNat * 256 + y.toNat * 16 ∧
    (encode (.xorReg x y)).toNat = 0x8003 + x.toNat * 256 + y.toNat * 16 ∧
    (∃ t, exec (.ldReg x y) s = .next t ∧ t.v x = s.v y ∧ t.pc = s.pc + 2 ∧ s.registerFrame t [x]) ∧
    (∃ t, exec (.orReg x y) s = .next t ∧
      (∀ k, (t.v x).getLsbD k = ((s.v x).getLsbD k || (s.v y).getLsbD k)) ∧ t.pc = s.pc + 2 ∧
      s.registerFrame t [x]) ∧
    (∃ t, exec (.andReg x y) s = .next t ∧
      (∀ k, (t.v x).getLsbD k = ((s.v x).getLsbD k && (s.v y).getLsbD k)) ∧ t.pc = s.pc + 2 ∧
      s.registerFrame t [x]) ∧
    (∃ t, exec (.xorReg x y) s = .next t ∧
      (∀ k, (t.v x).getLsbD k = ((s.v x).getLsbD k ^^ (s.v y).getLsbD k)) ∧ t.pc = s.pc + 2 ∧
      s.registerFrame t [x])

/-- R146: ADD Vx, Vy leaves the carry of the operands as they were in VF, and, for x ≠ F, the sum mod 256 in Vx; nothing
else but pc changes. -/
def Obligations.AddRegister : Prop :=
  ∀ (x y : Reg) (s : State),
    (encode (.addReg x y)).toNat = 0x8004 + x.toNat * 256 + y.toNat * 16 ∧
    ∃ t, exec (.addReg x y) s = .next t ∧
      (t.v VF).toNat = (if 0xFF < (s.v x).toNat + (s.v y).toNat then 1 else 0) ∧
      (x ≠ VF → (t.v x).toNat = ((s.v x).toNat + (s.v y).toNat) % 256) ∧ t.pc = s.pc + 2 ∧
      s.registerFrame t [x, VF]

/-- R147: SUB sets VF to (Vx > Vy), strictly, and THEN subtracts, reading both registers after that write: the four
aliasings of VF, each with its result. Nothing else but pc changes. -/
def Obligations.SubRegister : Prop :=
  ∀ (x y : Reg) (s : State) (f : Nat), f = (if (s.v y).toNat < (s.v x).toNat then 1 else 0) →
    (encode (.subReg x y)).toNat = 0x8005 + x.toNat * 256 + y.toNat * 16 ∧
    ∃ t, exec (.subReg x y) s = .next t ∧
      (x ≠ VF → (t.v VF).toNat = f) ∧
      (x ≠ VF → y ≠ VF → (t.v x).toNat = ((s.v x).toNat + 256 - (s.v y).toNat) % 256) ∧
      (x = VF → y ≠ VF → (t.v x).toNat = (f + 256 - (s.v y).toNat) % 256) ∧
      (x ≠ VF → y = VF → (t.v x).toNat = ((s.v x).toNat + 256 - f) % 256) ∧
      (x = VF → y = VF → (t.v x).toNat = 0) ∧ t.pc = s.pc + 2 ∧ s.registerFrame t [x, VF]

/-- R149: SUBN sets VF to (Vx ≤ Vy) and THEN subtracts Vx from Vy, reading both after that write: the four aliasings of
VF. Nothing else but pc changes. -/
def Obligations.SubnRegister : Prop :=
  ∀ (x y : Reg) (s : State) (f : Nat), f = (if (s.v x).toNat ≤ (s.v y).toNat then 1 else 0) →
    (encode (.subnReg x y)).toNat = 0x8007 + x.toNat * 256 + y.toNat * 16 ∧
    ∃ t, exec (.subnReg x y) s = .next t ∧
      (x ≠ VF → (t.v VF).toNat = f) ∧
      (x ≠ VF → y ≠ VF → (t.v x).toNat = ((s.v y).toNat + 256 - (s.v x).toNat) % 256) ∧
      (x = VF → y ≠ VF → (t.v x).toNat = ((s.v y).toNat + 256 - f) % 256) ∧
      (x ≠ VF → y = VF → (t.v x).toNat = (f + 256 - (s.v x).toNat) % 256) ∧
      (x = VF → y = VF → (t.v x).toNat = 0) ∧ t.pc = s.pc + 2 ∧ s.registerFrame t [x, VF]

/-- R148 and R150: the shifts set VF to the bit shifted out and THEN shift, whatever the field y holds; for x = F, SHR ends
with VF = 0 and SHL with twice the old bit 7. Nothing else but pc changes. -/
def Obligations.Shifts : Prop :=
  ∀ (x y : Reg) (s : State),
    (encode (.shr x y)).toNat = 0x8006 + x.toNat * 256 + y.toNat * 16 ∧
    (encode (.shl x y)).toNat = 0x800E + x.toNat * 256 + y.toNat * 16 ∧
    (∃ t, exec (.shr x y) s = .next t ∧
      (x ≠ VF → (t.v VF).toNat = (s.v x).toNat % 2 ∧ (t.v x).toNat = (s.v x).toNat / 2) ∧
      (x = VF → (t.v VF).toNat = 0) ∧ t.pc = s.pc + 2 ∧ s.registerFrame t [x, VF]) ∧
    (∃ t, exec (.shl x y) s = .next t ∧
      (x ≠ VF → (t.v VF).toNat = (s.v x).toNat / 128 ∧ (t.v x).toNat = (s.v x).toNat * 2 % 256) ∧
      (x = VF → (t.v VF).toNat = (s.v x).toNat / 128 * 2) ∧ t.pc = s.pc + 2 ∧ s.registerFrame t [x, VF])

/-- R152: RND leaves the cycle's random byte, masked bit by bit, in Vx, for every random byte. Nothing else but pc
changes. -/
def Obligations.RandomMasked : Prop :=
  ∀ (x : Reg) (nn : Byte) (s : State),
    (encode (.rnd x nn)).toNat = 0xC000 + x.toNat * 256 + nn.toNat ∧
    ∃ t, exec (.rnd x nn) s = .next t ∧
      (∀ k, (t.v x).getLsbD k = (s.host.rnd.getLsbD k && nn.getLsbD k)) ∧ t.pc = s.pc + 2 ∧ s.registerFrame t [x]

/-! ### Display -/

/-- R171: CLS clears every pixel and sets the draw flag; VF and everything else but pc is kept. -/
def Obligations.ClearScreen : Prop :=
  encode .cls = 0x00E0 ∧
  ∀ s : State, ∃ t, exec .cls s = .next t ∧ (∀ r c, Display.pixel t.disp r c = false) ∧ t.draw = true ∧
    t.pc = s.pc + 2 ∧ s.keepsRegsBut t [] ∧ t.I = s.I ∧ s.keepsMemory t ∧ s.keepsStack t ∧ s.keepsTimers t ∧
    s.keepsControl t ∧ t.host = s.host

/-- R172: DRW inside memory XORs every pixel with the sprite's bit for it, wrapping both axes at the coordinates V[x] and V[y]
as they were; VF is 1 exactly when a set pixel lay under a 1 bit; the draw flag is set; nothing else but pc changes.
Past 0xFFF it raises MemoryBoundFault and nothing is drawn; n = 0 makes no check. -/
def Obligations.DrawSprite : Prop :=
  ∀ (x y : Reg) (n : Nat) (s : State), n ≤ 15 →
    (encode (.drw x y n)).toNat = 0xD000 + x.toNat * 256 + y.toNat * 16 + n ∧
    (n = 0 ∨ s.I.toNat + n - 1 ≤ 0x0FFF → ∃ t, exec (.drw x y n) s = .next t ∧
      (∀ r c, Display.pixel t.disp r c = (Display.pixel s.disp r c ^^ decide (s.spriteCovers x y n r c))) ∧
      (t.v VF).toNat =
        (if ∃ r c, s.spriteCovers x y n r c ∧ Display.pixel s.disp r c = true then 1 else 0) ∧
      t.draw = true ∧ t.pc = s.pc + 2 ∧
      s.keepsRegsBut t [VF] ∧ t.I = s.I ∧ s.keepsMemory t ∧ s.keepsStack t ∧ s.keepsTimers t ∧ s.keepsControl t ∧
      t.host = s.host) ∧
    (0 < n ∧ 0x0FFF < s.I.toNat + n - 1 →
      exec (.drw x y n) s =
        .next (s.faultedWith .memoryBound (some (encode (.drw x y n)))
          (some (if 0x0FFF < s.I.toNat then s.I else 0x1000))))

/-- XOR cancellation (43_display.md section 3, R172 to R174): the same sprite drawn again at the same coordinates restores
every pixel, and the second draw's VF is 1 exactly when some pixel the sprite covers was clear before the first; so on
a clear screen a non-empty sprite gives VF = 1. -/
def Obligations.DrawTwiceRestores : Prop :=
  ∀ (x y : Reg) (n : Nat) (s : State), n ≤ 15 → n = 0 ∨ s.I.toNat + n - 1 ≤ 0x0FFF →
    ∃ t, exec (.drw x y n) s = .next t ∧
      ∀ s2 : State, s2.disp = t.disp → s2.mem = t.mem → s2.I = t.I → s2.v x = s.v x → s2.v y = s.v y →
        ∃ u, exec (.drw x y n) s2 = .next u ∧ (∀ r c, Display.pixel u.disp r c = Display.pixel s.disp r c) ∧
          (u.v VF = 1 ↔ ∃ r c, s.spriteCovers x y n r c ∧ Display.pixel s.disp r c = false)

/-! ### Keypad and timers -/

/-- R190 and R191: SKP skips when the key numbered V[x] is pressed, SKNP when it is not; nothing but pc changes; with
V[x] > 15 both raise KeyIndexFault with V[x] as the address. -/
def Obligations.KeySkips : Prop :=
  ∀ (x : Reg) (s : State),
    (encode (.skp x)).toNat = 0xE09E + x.toNat * 256 ∧ (encode (.sknp x)).toNat = 0xE0A1 + x.toNat * 256 ∧
    ((s.v x).toNat ≤ 15 → ∃ t, exec (.skp x) s = .next t ∧
      t.pc = (if s.host.keys.getLsbD (s.v x).toNat = true then s.pc + 4 else s.pc + 2) ∧ s.registerFrame t []) ∧
    ((s.v x).toNat ≤ 15 → ∃ t, exec (.sknp x) s = .next t ∧
      t.pc = (if s.host.keys.getLsbD (s.v x).toNat = false then s.pc + 4 else s.pc + 2) ∧ s.registerFrame t []) ∧
    (15 < (s.v x).toNat → ∃ a : Word, a.toNat = (s.v x).toNat ∧
      exec (.skp x) s = .next (s.faultedWith .keyIndex (some (encode (.skp x))) (some a)) ∧
      exec (.sknp x) s = .next (s.faultedWith .keyIndex (some (encode (.sknp x))) (some a)))

/-- R192, R194 and R195: LD Vx, DT copies DT, which does not change; LD DT, Vx and LD ST, Vx write one timer each. Nothing
else but pc changes. -/
def Obligations.TimerAccess : Prop :=
  ∀ (x : Reg) (s : State),
    (encode (.ldVxDT x)).toNat = 0xF007 + x.toNat * 256 ∧ (encode (.ldDTVx x)).toNat = 0xF015 + x.toNat * 256 ∧
    (encode (.ldSTVx x)).toNat = 0xF018 + x.toNat * 256 ∧
    (∃ t, exec (.ldVxDT x) s = .next t ∧ t.v x = s.DT ∧ t.pc = s.pc + 2 ∧ s.registerFrame t [x]) ∧
    (∃ t, exec (.ldDTVx x) s = .next t ∧ t.DT = s.v x ∧ t.ST = s.ST ∧ t.pc = s.pc + 2 ∧
      s.keepsRegsBut t [] ∧ t.I = s.I ∧ s.keepsMemory t ∧ s.keepsStack t ∧ s.keepsDisplay t ∧ s.keepsControl t ∧
      t.host = s.host) ∧
    (∃ t, exec (.ldSTVx x) s = .next t ∧ t.ST = s.v x ∧ t.DT = s.DT ∧ t.pc = s.pc + 2 ∧
      s.keepsRegsBut t [] ∧ t.I = s.I ∧ s.keepsMemory t ∧ s.keepsStack t ∧ s.keepsDisplay t ∧ s.keepsControl t ∧
      t.host = s.host)

/-- R193: LD Vx, K enters AWAITING_KEY with wait_reg = x and pc past the instruction, whatever keys are pressed; no
register and nothing else changes. The wait ends only by a cycle with a pressed key, or by initialize. -/
def Obligations.WaitForKey : Prop :=
  (∀ (x : Reg) (s : State),
    (encode (.ldVxK x)).toNat = 0xF00A + x.toNat * 256 ∧
    ∃ t, exec (.ldVxK x) s = .next t ∧ t.mode = .awaitingKey ∧ t.waitReg = x ∧ t.pc = s.pc + 2 ∧
      t.fault = s.fault ∧ s.keepsRegsBut t [] ∧ t.I = s.I ∧ s.keepsMemory t ∧ s.keepsStack t ∧ s.keepsTimers t ∧
      s.keepsDisplay t ∧ t.host = s.host) ∧
  (∀ s t : State, s.mode = .awaitingKey → step s = .next t → t.mode ≠ .awaitingKey →
    s.nextTransaction = .init ∨
      ∃ keys rnd, s.nextTransaction = .runCycle keys rnd ∧ ∃ k < 16, keys.getLsbD k = true)

/-! ### Index register and memory transfer -/

/-- R210, R211 and R212: LD I sets I to nnn; ADD I adds V[x] mod 2^16 and sets VF to (new I > 0xFFF); LD F sets I to five times
the whole of V[x]. Nothing else but pc changes. -/
def Obligations.IndexWrites : Prop :=
  ∀ (nnn : Addr) (x : Reg) (s : State),
    (encode (.ldI nnn)).toNat = 0xA000 + nnn.toNat ∧ (encode (.addI x)).toNat = 0xF01E + x.toNat * 256 ∧
    (encode (.ldF x)).toNat = 0xF029 + x.toNat * 256 ∧
    (∃ t, exec (.ldI nnn) s = .next t ∧ t.I.toNat = nnn.toNat ∧ t.pc = s.pc + 2 ∧
      s.keepsRegsBut t [] ∧ s.keepsMemory t ∧ s.keepsStack t ∧ s.keepsTimers t ∧ s.keepsDisplay t ∧
      s.keepsControl t ∧ t.host = s.host) ∧
    (∃ t, exec (.addI x) s = .next t ∧ t.I.toNat = (s.I.toNat + (s.v x).toNat) % 65536 ∧
      (t.v VF).toNat = (if 0xFFF < t.I.toNat then 1 else 0) ∧ t.pc = s.pc + 2 ∧
      s.keepsRegsBut t [VF] ∧ s.keepsMemory t ∧ s.keepsStack t ∧ s.keepsTimers t ∧ s.keepsDisplay t ∧
      s.keepsControl t ∧ t.host = s.host) ∧
    (∃ t, exec (.ldF x) s = .next t ∧ t.I.toNat = (s.v x).toNat * 5 ∧ t.pc = s.pc + 2 ∧
      s.keepsRegsBut t [] ∧ s.keepsMemory t ∧ s.keepsStack t ∧ s.keepsTimers t ∧ s.keepsDisplay t ∧
      s.keepsControl t ∧ t.host = s.host)

/-- R213: LD B stores hundreds, tens and ones of V[x] at I, I+1 and I+2, and every other byte, I and everything else but pc
is kept; past 0xFFF it raises MemoryBoundFault and nothing is written. -/
def Obligations.StoreBcd : Prop :=
  ∀ (x : Reg) (s : State),
    (encode (.ldB x)).toNat = 0xF033 + x.toNat * 256 ∧
    (s.indexAddr + 2 ≤ 0x0FFF → ∃ t, exec (.ldB x) s = .next t ∧
      (Memory.read t.mem s.indexAddr).toNat = (s.v x).toNat / 100 ∧
      (Memory.read t.mem (s.indexAddr + 1)).toNat = (s.v x).toNat / 10 % 10 ∧
      (Memory.read t.mem (s.indexAddr + 2)).toNat = (s.v x).toNat % 10 ∧
      (∀ a, a < s.indexAddr ∨ s.indexAddr + 2 < a → Memory.read t.mem a = Memory.read s.mem a) ∧
      t.pc = s.pc + 2 ∧ s.keepsRegsBut t [] ∧ t.I = s.I ∧ s.keepsStack t ∧ s.keepsTimers t ∧ s.keepsDisplay t ∧
      s.keepsControl t ∧ t.host = s.host) ∧
    (0x0FFF < s.indexAddr + 2 →
      exec (.ldB x) s = .next (s.faultedWith .memoryBound (some (encode (.ldB x)))
        (some (if 0x0FFF < s.indexAddr then s.I else 0x1000))))

/-- R214: LD [I], Vx stores V0..Vx at I..I+x, and every other byte, I and everything else but pc is kept; past 0xFFF it raises
MemoryBoundFault and nothing is written. -/
def Obligations.RegisterDump : Prop :=
  ∀ (x : Reg) (s : State),
    (encode (.ldMemVx x)).toNat = 0xF055 + x.toNat * 256 ∧
    (s.indexAddr + x.toNat ≤ 0x0FFF → ∃ t, exec (.ldMemVx x) s = .next t ∧
      (∀ y : Reg, y.toNat ≤ x.toNat → Memory.read t.mem (s.indexAddr + y.toNat) = s.v y) ∧
      (∀ a, a < s.indexAddr ∨ s.indexAddr + x.toNat < a → Memory.read t.mem a = Memory.read s.mem a) ∧
      t.pc = s.pc + 2 ∧ s.keepsRegsBut t [] ∧ t.I = s.I ∧ s.keepsStack t ∧ s.keepsTimers t ∧ s.keepsDisplay t ∧
      s.keepsControl t ∧ t.host = s.host) ∧
    (0x0FFF < s.indexAddr + x.toNat →
      exec (.ldMemVx x) s = .next (s.faultedWith .memoryBound (some (encode (.ldMemVx x)))
        (some (if 0x0FFF < s.indexAddr then s.I else 0x1000))))

/-- R215: LD Vx, [I] loads V0..Vx from I..I+x; the registers above Vx, I, memory and everything else but pc are kept; past
0xFFF it raises MemoryBoundFault and no register is written. -/
def Obligations.RegisterLoad : Prop :=
  ∀ (x : Reg) (s : State),
    (encode (.ldVxMem x)).toNat = 0xF065 + x.toNat * 256 ∧
    (s.indexAddr + x.toNat ≤ 0x0FFF → ∃ t, exec (.ldVxMem x) s = .next t ∧
      (∀ y : Reg, y.toNat ≤ x.toNat → t.v y = Memory.read s.mem (s.indexAddr + y.toNat)) ∧
      (∀ y : Reg, x.toNat < y.toNat → t.v y = s.v y) ∧
      t.pc = s.pc + 2 ∧ t.I = s.I ∧ s.keepsMemory t ∧ s.keepsStack t ∧ s.keepsTimers t ∧ s.keepsDisplay t ∧
      s.keepsControl t ∧ t.host = s.host) ∧
    (0x0FFF < s.indexAddr + x.toNat →
      exec (.ldVxMem x) s = .next (s.faultedWith .memoryBound (some (encode (.ldVxMem x)))
        (some (if 0x0FFF < s.indexAddr then s.I else 0x1000))))

/-- R216: a dump of V0..VF at I ≤ 0xFF0, then any change of the registers, then a load at the same I from the same memory,
restores V0..VF; for I > 0xFF0 the dump raises MemoryBoundFault. -/
def Obligations.DumpLoadRoundTrip : Prop :=
  ∀ s : State,
    (s.I.toNat ≤ 0xFF0 → ∃ t, exec (.ldMemVx VF) s = .next t ∧
      ∀ s2 : State, s2.mem = t.mem → s2.I = t.I → ∃ u, exec (.ldVxMem VF) s2 = .next u ∧ ∀ y, u.v y = s.v y) ∧
    (0xFF0 < s.I.toNat → ∃ t addr, exec (.ldMemVx VF) s = .next t ∧ t.mode = .faulted ∧
      t.fault = some ⟨.memoryBound, s.pc, some (encode (.ldMemVx VF)), some addr⟩)

/-- What LD B and LD [I], Vx store is seen by a later fetch with no fence (R63, R266): in any state with the memory either
leaves, a fetch reads, big-endian, the stored bytes where it falls on them, in both bytes, in one or in none, and the bytes
from before elsewhere. -/
def Obligations.FetchSeesStore : Prop :=
  ∀ (x : Reg) (s : State),
    (s.indexAddr + 2 ≤ 0x0FFF → ∃ t, exec (.ldB x) s = .next t ∧
      ∀ s2 : State, s2.mem = t.mem → s2.pc.toNat ≤ 0x0FFE → ∃ w, s2.fetch = .ok w ∧
        w.toNat = s.wordAfterStore s.indexAddr 3 (s.bcdByte x) s2.pc.toNat) ∧
    (s.indexAddr + x.toNat ≤ 0x0FFF → ∃ t, exec (.ldMemVx x) s = .next t ∧
      ∀ s2 : State, s2.mem = t.mem → s2.pc.toNat ≤ 0x0FFE → ∃ w, s2.fetch = .ok w ∧
        w.toNat = s.wordAfterStore s.indexAddr (x.toNat + 1) (fun k => (s.v (BitVec.ofNat 4 k)).toNat) s2.pc.toNat)

/-! ### The whole machine -/

/-- An invariant is kept by every step, whatever the transaction: of R40, pc ≤ 0x10FE and a fault record exactly in FAULTED;
and beside R40, stack entries ≤ 0x1000 (R23, R122) and memory in its canonical form, which is the model's own (log 10). -/
def Obligations.StepKeepsInv : Prop :=
  ∀ s t : State, s.Inv → step s = .next t → t.Inv

/-- That invariant, R40's clauses with R23's stack bound and the model's own canonical form of memory (log 10), holds at reset
(R39). -/
def Obligations.ResetInv : Prop :=
  State.reset.Inv

/-- R24: the next pc of every instruction that raises no fault is the table's; any fault, of a fetch or a decode too, leaves
pc at p; and pc stays where it is through every cycle of a key-wait. -/
def Obligations.NextPc : Prop :=
  (∀ s t : State, cycle s = .next t → s.mode = .awaitingKey ∨ t.mode = .faulted → t.pc = s.pc) ∧
  ∀ (i : Instr) (s t : State), exec i s = .next t →
    ((faultOf i s).isSome = true → t.pc = s.pc) ∧
    (faultOf i s = none →
      match i with
      | .seImm x nn => t.pc = if s.v x = nn then s.pc + 4 else s.pc + 2
      | .sneImm x nn => t.pc = if s.v x ≠ nn then s.pc + 4 else s.pc + 2
      | .seReg x y => t.pc = if s.v x = s.v y then s.pc + 4 else s.pc + 2
      | .sneReg x y => t.pc = if s.v x ≠ s.v y then s.pc + 4 else s.pc + 2
      | .skp x => t.pc = if s.host.keys.getLsbD (s.v x).toNat = true then s.pc + 4 else s.pc + 2
      | .sknp x => t.pc = if s.host.keys.getLsbD (s.v x).toNat = false then s.pc + 4 else s.pc + 2
      | .jp nnn => t.pc.toNat = nnn.toNat
      | .call nnn => t.pc.toNat = nnn.toNat
      | .ret => s.stack[t.sp.val]? = some t.pc
      | .jpV0 nnn => t.pc.toNat = nnn.toNat + (s.v 0).toNat
      | _ => t.pc = s.pc + 2)

/-- Who writes what, over all instructions (R20, R27, R28, R53, R178, R242): only LD I, ADD I and LD F change I; only CLS and
DRW the display and the draw flag; only CALL and RET sp, only CALL a stack entry; only LD DT and LD ST a timer, each its
own; only LD B and LD [I] memory; only LD Vx, K wait_reg; and none the host's side or FONT. -/
def Obligations.WhoWritesWhat : Prop :=
  ∀ (i : Instr) (s t : State), exec i s = .next t →
    (t.I = s.I ∨ (∃ nnn, i = .ldI nnn) ∨ (∃ x, i = .addI x) ∨ ∃ x, i = .ldF x) ∧
    (s.keepsDisplay t ∨ i = .cls ∨ ∃ x y n, i = .drw x y n) ∧
    (t.sp = s.sp ∨ i = .ret ∨ ∃ nnn, i = .call nnn) ∧
    (t.stack = s.stack ∨ ∃ nnn, i = .call nnn) ∧
    (t.DT = s.DT ∨ ∃ x, i = .ldDTVx x) ∧
    (t.ST = s.ST ∨ ∃ x, i = .ldSTVx x) ∧
    (s.keepsMemory t ∨ (∃ x, i = .ldB x) ∨ ∃ x, i = .ldMemVx x) ∧
    (t.waitReg = s.waitReg ∨ ∃ x, i = .ldVxK x) ∧
    t.host = s.host ∧ t.font = s.font

/-- VF changes only under the instructions of R41's table or under one that names it as x, the destination (R22, R41). -/
def Obligations.WhoWritesVF : Prop :=
  ∀ (i : Instr) (s t : State), exec i s = .next t → t.v VF ≠ s.v VF →
    (∃ x y, i = .addReg x y) ∨ (∃ x y, i = .subReg x y) ∨ (∃ x y, i = .shr x y) ∨ (∃ x y, i = .subnReg x y) ∨
    (∃ x y, i = .shl x y) ∨ (∃ x y n, i = .drw x y n) ∨ (∃ x, i = .addI x) ∨
    (∃ nn, i = .ldImm VF nn) ∨ (∃ nn, i = .addImm VF nn) ∨ (∃ y, i = .ldReg VF y) ∨ (∃ y, i = .orReg VF y) ∨
    (∃ y, i = .andReg VF y) ∨ (∃ y, i = .xorReg VF y) ∨ (∃ nn, i = .rnd VF nn) ∨ i = .ldVxDT VF ∨ i = .ldVxMem VF

/-- The random byte is used by RND alone, and the keys by SKP, SKNP and the key-wait alone (R75's implicit operands, R101, R111,
R190, R191; R35 and R36 for what the inputs are): every other instruction, and every cycle that runs none of these, does
the same whatever they are. -/
def Obligations.InputsUsedOnlyBy : Prop :=
  (∀ (i : Instr) (s t : State), exec i s = .next t →
    (∀ rnd : Byte, (∀ x nn, i ≠ .rnd x nn) →
      exec i { s with host := { s.host with rnd := rnd } } = .next { t with host := { t.host with rnd := rnd } }) ∧
    (∀ keys : Keys, (∀ x, i ≠ .skp x) → (∀ x, i ≠ .sknp x) →
      exec i { s with host := { s.host with keys := keys } } = .next { t with host := { t.host with keys := keys } })) ∧
  (∀ s t : State, cycle s = .next t →
    (∀ rnd : Byte, (s.mode = .running → ∀ w x nn, s.fetch = .ok w → decode w ≠ .instr (.rnd x nn)) →
      cycle { s with host := { s.host with rnd := rnd } } = .next { t with host := { t.host with rnd := rnd } }) ∧
    (∀ keys : Keys, s.mode ≠ .awaitingKey →
      (s.mode = .running → ∀ w x, s.fetch = .ok w → decode w ≠ .instr (.skp x) ∧ decode w ≠ .instr (.sknp x)) →
      cycle { s with host := { s.host with keys := keys } } = .next { t with host := { t.host with keys := keys } }))

/-- No cycle reads an earlier cycle's inputs (R35, R109): a step that performs a run_cycle does the same whatever the last
cycle's keys and random byte were. -/
def Obligations.NoStaleInputs : Prop :=
  ∀ (s : State) (keys oldKeys : Keys) (rnd oldRnd : Byte), s.nextTransaction = .runCycle keys rnd →
    step { s with host := { s.host with keys := oldKeys, rnd := oldRnd } } = step s

/-- A run_cycle moves a timer only by LD DT, Vx or LD ST, Vx (R242): a cycle that changes DT or ST executed one of them, from
RUNNING. -/
def Obligations.CyclesKeepTimers : Prop :=
  ∀ (s t : State) (keys : Keys) (rnd : Byte), s.nextTransaction = .runCycle keys rnd → step s = .next t →
    s.keepsTimers t ∨ (s.mode = .running ∧ ∃ w x, s.fetch = .ok w ∧
      (decode w = .instr (.ldDTVx x) ∧ t.DT = s.v x ∧ t.ST = s.ST ∨
        decode w = .instr (.ldSTVx x) ∧ t.ST = s.v x ∧ t.DT = s.DT))

/-- run_cycle returns ok exactly when its cycle left the core unfaulted, from any state in which the record and the mode
agree (R34, R108). -/
def Obligations.CycleResultReports : Prop :=
  ∀ (s t : State) (keys : Keys) (rnd : Byte), s.faultConsistent → s.nextTransaction = .runCycle keys rnd →
    step s = .next t →
    (t.cycleResult = .ok ↔ t.mode ≠ .faulted) ∧ ∀ r, t.cycleResult = .fault r ↔ t.mode = .faulted ∧ t.fault = some r
end

