-- ==== Sys2Proof/Laws/Decode.lean ====
section
/-! SUPPORT. Fields of words as numbers, words of the three formats as numbers (R71, R72), and masks on them (R74). -/

namespace Sys2Proof

/-! ### The fields of a word (R71) -/

theorem fieldOp_toNat (w : Word) : (fieldOp w).toNat = w.toNat / 4096 := by
  have := w.isLt
  simp only [fieldOp, BitVec.extractLsb'_toNat, Nat.shiftRight_eq_div_pow]
  omega

theorem fieldX_toNat (w : Word) : (fieldX w).toNat = w.toNat / 256 % 16 := by
  simp only [fieldX, BitVec.extractLsb'_toNat, Nat.shiftRight_eq_div_pow]

theorem fieldY_toNat (w : Word) : (fieldY w).toNat = w.toNat / 16 % 16 := by
  simp only [fieldY, BitVec.extractLsb'_toNat, Nat.shiftRight_eq_div_pow]

theorem fieldN_toNat (w : Word) : (fieldN w).toNat = w.toNat % 16 := by
  simp [fieldN, BitVec.extractLsb'_toNat]

theorem fieldNN_toNat (w : Word) : (fieldNN w).toNat = w.toNat % 256 := by
  simp [fieldNN, BitVec.extractLsb'_toNat]

theorem fieldNNN_toNat (w : Word) : (fieldNNN w).toNat = w.toNat % 4096 := by
  simp [fieldNNN, BitVec.extractLsb'_toNat]

/-! ### The words of the formats (R72) -/

theorem toNat_formatFA (p : BitVec 4) (a : Addr) : (p ++ a : Word).toNat = p.toNat * 4096 + a.toNat := by
  have := a.isLt
  rw [BitVec.toNat_append, ← Nat.shiftLeft_add_eq_or_of_lt (by omega), Nat.shiftLeft_eq]

theorem toNat_formatFI (p x : BitVec 4) (b : Byte) :
    (p ++ x ++ b : Word).toNat = p.toNat * 4096 + x.toNat * 256 + b.toNat := by
  have := x.isLt
  have := b.isLt
  rw [BitVec.toNat_append, BitVec.toNat_append, ← Nat.shiftLeft_add_eq_or_of_lt (by omega),
    ← Nat.shiftLeft_add_eq_or_of_lt (by omega), Nat.shiftLeft_eq, Nat.shiftLeft_eq]
  omega

theorem toNat_formatFR (p x y n : BitVec 4) :
    (p ++ x ++ y ++ n : Word).toNat = p.toNat * 4096 + x.toNat * 256 + y.toNat * 16 + n.toNat := by
  have := x.isLt
  have := y.isLt
  have := n.isLt
  rw [BitVec.toNat_append, BitVec.toNat_append, BitVec.toNat_append, ← Nat.shiftLeft_add_eq_or_of_lt (by omega),
    ← Nat.shiftLeft_add_eq_or_of_lt (by omega), ← Nat.shiftLeft_add_eq_or_of_lt (by omega), Nat.shiftLeft_eq,
    Nat.shiftLeft_eq, Nat.shiftLeft_eq]
  omega

/-- A register-register word is its pattern plus its registers in place. -/
theorem toNat_patternFR (p x y n : BitVec 4) {k : Nat} (h : p.toNat * 4096 + n.toNat = k) :
    (p ++ x ++ y ++ n : Word).toNat = k + x.toNat * 256 + y.toNat * 16 := by
  subst h
  rw [toNat_formatFR]
  omega

/-- A register word with a fixed low byte is its pattern plus its register in place. -/
theorem toNat_patternFX (p x : BitVec 4) (b : Byte) {k : Nat} (h : p.toNat * 4096 + b.toNat = k) :
    (p ++ x ++ b : Word).toNat = k + x.toNat * 256 := by
  subst h
  rw [toNat_formatFI]
  omega

/-! ### Masks on the formats (R74) -/

theorem and_nibble (p : BitVec 4) : p &&& 0xF#4 = p := BitVec.and_allOnes

theorem and_byte (b : Byte) : b &&& 0xFF#8 = b := BitVec.and_allOnes

theorem mask_formatFA (p : BitVec 4) (a : Addr) : (p ++ a : Word) &&& 0xF000 = (p ++ 0#12 : Word) := by
  have h : (p ++ a) &&& (0xF#4 ++ 0#12) = p ++ 0#12 := by
    rw [BitVec.and_append, BitVec.and_zero, and_nibble p]
  exact h

theorem mask_formatFI (p x : BitVec 4) (b : Byte) : (p ++ x ++ b : Word) &&& 0xF000 = (p ++ 0#4 ++ 0#8 : Word) := by
  have h : (p ++ x ++ b) &&& (0xF#4 ++ 0#4 ++ 0#8) = p ++ 0#4 ++ 0#8 := by
    rw [BitVec.and_append, BitVec.and_append, BitVec.and_zero, BitVec.and_zero, and_nibble p]
  exact h

theorem mask_formatFR (p x y n : BitVec 4) :
    (p ++ x ++ y ++ n : Word) &&& 0xF00F = (p ++ 0#4 ++ 0#4 ++ n : Word) := by
  have h : (p ++ x ++ y ++ n) &&& (0xF#4 ++ 0#4 ++ 0#4 ++ 0xF#4) = p ++ 0#4 ++ 0#4 ++ n := by
    rw [BitVec.and_append, BitVec.and_append, BitVec.and_append, BitVec.and_zero, BitVec.and_zero,
      and_nibble p, and_nibble n]
  exact h

theorem mask_formatFD (p x y n : BitVec 4) :
    (p ++ x ++ y ++ n : Word) &&& 0xF000 = (p ++ 0#4 ++ 0#4 ++ 0#4 : Word) := by
  have h : (p ++ x ++ y ++ n) &&& (0xF#4 ++ 0#4 ++ 0#4 ++ 0#4) = p ++ 0#4 ++ 0#4 ++ 0#4 := by
    rw [BitVec.and_append, BitVec.and_append, BitVec.and_append, BitVec.and_zero, BitVec.and_zero, BitVec.and_zero,
      and_nibble p]
  exact h

theorem mask_formatFX (p x : BitVec 4) (b : Byte) : (p ++ x ++ b : Word) &&& 0xF0FF = (p ++ 0#4 ++ b : Word) := by
  have h : (p ++ x ++ b) &&& (0xF#4 ++ 0#4 ++ 0xFF#8) = p ++ 0#4 ++ b := by
    rw [BitVec.and_append, BitVec.and_append, BitVec.and_zero, and_nibble p, and_byte b]
  exact h

/-- A word is its four nibbles (R71). -/
theorem word_eq_nibbles (w : Word) : w = (fieldOp w ++ fieldX w ++ fieldY w ++ fieldN w : Word) := by
  apply BitVec.eq_of_toNat_eq
  rw [toNat_formatFR, fieldOp_toNat, fieldX_toNat, fieldY_toNat, fieldN_toNat]
  omega

theorem mask_op_toNat (w : Word) : (w &&& 0xF000).toNat = w.toNat / 4096 * 4096 := by
  have h := congrArg (fun u : Word => (u &&& 0xF000).toNat) (word_eq_nibbles w)
  simp only [mask_formatFD] at h
  rw [h, toNat_formatFR, fieldOp_toNat]
  simp

theorem mask_op_n_toNat (w : Word) : (w &&& 0xF00F).toNat = w.toNat / 4096 * 4096 + w.toNat % 16 := by
  have h := congrArg (fun u : Word => (u &&& 0xF00F).toNat) (word_eq_nibbles w)
  simp only [mask_formatFR] at h
  rw [h, toNat_formatFR, fieldOp_toNat, fieldN_toNat]
  simp

theorem mask_op_nn_toNat (w : Word) : (w &&& 0xF0FF).toNat = w.toNat / 4096 * 4096 + w.toNat % 256 := by
  have e : w = (fieldOp w ++ fieldX w ++ fieldNN w : Word) := by
    apply BitVec.eq_of_toNat_eq
    rw [toNat_formatFI, fieldOp_toNat, fieldX_toNat, fieldNN_toNat]
    omega
  have h := congrArg (fun u : Word => (u &&& 0xF0FF).toNat) e
  simp only [mask_formatFX] at h
  rw [h, toNat_formatFI, fieldOp_toNat, fieldNN_toNat]
  simp

theorem mask_all (w : Word) : w &&& 0xFFFF = w := BitVec.and_allOnes

theorem mem_opcodeMap {r : OpcodeRow} (h : opcodeMap.contains r = true) : r ∈ opcodeMap := by simpa using h

theorem length_opcodeMap : opcodeMap.length = 34 := rfl

end Sys2Proof
end

