-- ==== Sys2Proof/Laws/State.lean ====
section
/-! SUPPORT. What each named update of the state does to each field: one lemma per field per update. -/

namespace Sys2Proof.Machine

variable (s : State)

@[simp] theorem State.setV_mem (x : Reg) (b : Byte) : (s.setV x b).mem = s.mem := rfl
@[simp] theorem State.setV_V (x : Reg) (b : Byte) : (s.setV x b).V = s.V.set x.toNat b x.isLt := rfl
@[simp] theorem State.setV_I (x : Reg) (b : Byte) : (s.setV x b).I = s.I := rfl
@[simp] theorem State.setV_pc (x : Reg) (b : Byte) : (s.setV x b).pc = s.pc := rfl
@[simp] theorem State.setV_sp (x : Reg) (b : Byte) : (s.setV x b).sp = s.sp := rfl
@[simp] theorem State.setV_stack (x : Reg) (b : Byte) : (s.setV x b).stack = s.stack := rfl
@[simp] theorem State.setV_DT (x : Reg) (b : Byte) : (s.setV x b).DT = s.DT := rfl
@[simp] theorem State.setV_ST (x : Reg) (b : Byte) : (s.setV x b).ST = s.ST := rfl
@[simp] theorem State.setV_disp (x : Reg) (b : Byte) : (s.setV x b).disp = s.disp := rfl
@[simp] theorem State.setV_draw (x : Reg) (b : Byte) : (s.setV x b).draw = s.draw := rfl
@[simp] theorem State.setV_mode (x : Reg) (b : Byte) : (s.setV x b).mode = s.mode := rfl
@[simp] theorem State.setV_waitReg (x : Reg) (b : Byte) : (s.setV x b).waitReg = s.waitReg := rfl
@[simp] theorem State.setV_font (x : Reg) (b : Byte) : (s.setV x b).font = s.font := rfl
@[simp] theorem State.setV_fault (x : Reg) (b : Byte) : (s.setV x b).fault = s.fault := rfl
@[simp] theorem State.setV_host (x : Reg) (b : Byte) : (s.setV x b).host = s.host := rfl

@[simp] theorem State.advance_mem : (s.advance).mem = s.mem := rfl
@[simp] theorem State.advance_V : (s.advance).V = s.V := rfl
@[simp] theorem State.advance_I : (s.advance).I = s.I := rfl
@[simp] theorem State.advance_pc : (s.advance).pc = s.pc + 2 := rfl
@[simp] theorem State.advance_sp : (s.advance).sp = s.sp := rfl
@[simp] theorem State.advance_stack : (s.advance).stack = s.stack := rfl
@[simp] theorem State.advance_DT : (s.advance).DT = s.DT := rfl
@[simp] theorem State.advance_ST : (s.advance).ST = s.ST := rfl
@[simp] theorem State.advance_disp : (s.advance).disp = s.disp := rfl
@[simp] theorem State.advance_draw : (s.advance).draw = s.draw := rfl
@[simp] theorem State.advance_mode : (s.advance).mode = s.mode := rfl
@[simp] theorem State.advance_waitReg : (s.advance).waitReg = s.waitReg := rfl
@[simp] theorem State.advance_font : (s.advance).font = s.font := rfl
@[simp] theorem State.advance_fault : (s.advance).fault = s.fault := rfl
@[simp] theorem State.advance_host : (s.advance).host = s.host := rfl
@[simp] theorem State.advance_v (y : Reg) : (s.advance).v y = s.v y := rfl

@[simp] theorem State.skipIf_mem (c : Bool) : (s.skipIf c).mem = s.mem := rfl
@[simp] theorem State.skipIf_V (c : Bool) : (s.skipIf c).V = s.V := rfl
@[simp] theorem State.skipIf_I (c : Bool) : (s.skipIf c).I = s.I := rfl
@[simp] theorem State.skipIf_pc (c : Bool) : (s.skipIf c).pc = s.pc + (if c then 4 else 2) := rfl
@[simp] theorem State.skipIf_sp (c : Bool) : (s.skipIf c).sp = s.sp := rfl
@[simp] theorem State.skipIf_stack (c : Bool) : (s.skipIf c).stack = s.stack := rfl
@[simp] theorem State.skipIf_DT (c : Bool) : (s.skipIf c).DT = s.DT := rfl
@[simp] theorem State.skipIf_ST (c : Bool) : (s.skipIf c).ST = s.ST := rfl
@[simp] theorem State.skipIf_disp (c : Bool) : (s.skipIf c).disp = s.disp := rfl
@[simp] theorem State.skipIf_draw (c : Bool) : (s.skipIf c).draw = s.draw := rfl
@[simp] theorem State.skipIf_mode (c : Bool) : (s.skipIf c).mode = s.mode := rfl
@[simp] theorem State.skipIf_waitReg (c : Bool) : (s.skipIf c).waitReg = s.waitReg := rfl
@[simp] theorem State.skipIf_font (c : Bool) : (s.skipIf c).font = s.font := rfl
@[simp] theorem State.skipIf_fault (c : Bool) : (s.skipIf c).fault = s.fault := rfl
@[simp] theorem State.skipIf_host (c : Bool) : (s.skipIf c).host = s.host := rfl
@[simp] theorem State.skipIf_v (c : Bool) (y : Reg) : (s.skipIf c).v y = s.v y := rfl

@[simp] theorem State.jump_mem (w : Word) : (s.jump w).mem = s.mem := rfl
@[simp] theorem State.jump_V (w : Word) : (s.jump w).V = s.V := rfl
@[simp] theorem State.jump_I (w : Word) : (s.jump w).I = s.I := rfl
@[simp] theorem State.jump_pc (w : Word) : (s.jump w).pc = w := rfl
@[simp] theorem State.jump_sp (w : Word) : (s.jump w).sp = s.sp := rfl
@[simp] theorem State.jump_stack (w : Word) : (s.jump w).stack = s.stack := rfl
@[simp] theorem State.jump_DT (w : Word) : (s.jump w).DT = s.DT := rfl
@[simp] theorem State.jump_ST (w : Word) : (s.jump w).ST = s.ST := rfl
@[simp] theorem State.jump_disp (w : Word) : (s.jump w).disp = s.disp := rfl
@[simp] theorem State.jump_draw (w : Word) : (s.jump w).draw = s.draw := rfl
@[simp] theorem State.jump_mode (w : Word) : (s.jump w).mode = s.mode := rfl
@[simp] theorem State.jump_waitReg (w : Word) : (s.jump w).waitReg = s.waitReg := rfl
@[simp] theorem State.jump_font (w : Word) : (s.jump w).font = s.font := rfl
@[simp] theorem State.jump_fault (w : Word) : (s.jump w).fault = s.fault := rfl
@[simp] theorem State.jump_host (w : Word) : (s.jump w).host = s.host := rfl
@[simp] theorem State.jump_v (w : Word) (y : Reg) : (s.jump w).v y = s.v y := rfl

@[simp] theorem State.raise_mem (k : FaultKind) (w a : Option Word) : (s.raise k w a).mem = s.mem := rfl
@[simp] theorem State.raise_V (k : FaultKind) (w a : Option Word) : (s.raise k w a).V = s.V := rfl
@[simp] theorem State.raise_I (k : FaultKind) (w a : Option Word) : (s.raise k w a).I = s.I := rfl
@[simp] theorem State.raise_pc (k : FaultKind) (w a : Option Word) : (s.raise k w a).pc = s.pc := rfl
@[simp] theorem State.raise_sp (k : FaultKind) (w a : Option Word) : (s.raise k w a).sp = s.sp := rfl
@[simp] theorem State.raise_stack (k : FaultKind) (w a : Option Word) : (s.raise k w a).stack = s.stack := rfl
@[simp] theorem State.raise_DT (k : FaultKind) (w a : Option Word) : (s.raise k w a).DT = s.DT := rfl
@[simp] theorem State.raise_ST (k : FaultKind) (w a : Option Word) : (s.raise k w a).ST = s.ST := rfl
@[simp] theorem State.raise_disp (k : FaultKind) (w a : Option Word) : (s.raise k w a).disp = s.disp := rfl
@[simp] theorem State.raise_draw (k : FaultKind) (w a : Option Word) : (s.raise k w a).draw = s.draw := rfl
@[simp] theorem State.raise_mode (k : FaultKind) (w a : Option Word) : (s.raise k w a).mode = .faulted := rfl
@[simp] theorem State.raise_waitReg (k : FaultKind) (w a : Option Word) : (s.raise k w a).waitReg = s.waitReg := rfl
@[simp] theorem State.raise_font (k : FaultKind) (w a : Option Word) : (s.raise k w a).font = s.font := rfl
@[simp] theorem State.raise_fault (k : FaultKind) (w a : Option Word) : (s.raise k w a).fault = some ⟨k, s.pc, w, a⟩ := rfl
@[simp] theorem State.raise_host (k : FaultKind) (w a : Option Word) : (s.raise k w a).host = s.host := rfl
@[simp] theorem State.raise_v (k : FaultKind) (w a : Option Word) (y : Reg) : (s.raise k w a).v y = s.v y := rfl

@[simp] theorem State.setI_mem (i : Word) : (s.setI i).mem = s.mem := rfl
@[simp] theorem State.setI_V (i : Word) : (s.setI i).V = s.V := rfl
@[simp] theorem State.setI_I (i : Word) : (s.setI i).I = i := rfl
@[simp] theorem State.setI_pc (i : Word) : (s.setI i).pc = s.pc := rfl
@[simp] theorem State.setI_sp (i : Word) : (s.setI i).sp = s.sp := rfl
@[simp] theorem State.setI_stack (i : Word) : (s.setI i).stack = s.stack := rfl
@[simp] theorem State.setI_DT (i : Word) : (s.setI i).DT = s.DT := rfl
@[simp] theorem State.setI_ST (i : Word) : (s.setI i).ST = s.ST := rfl
@[simp] theorem State.setI_disp (i : Word) : (s.setI i).disp = s.disp := rfl
@[simp] theorem State.setI_draw (i : Word) : (s.setI i).draw = s.draw := rfl
@[simp] theorem State.setI_mode (i : Word) : (s.setI i).mode = s.mode := rfl
@[simp] theorem State.setI_waitReg (i : Word) : (s.setI i).waitReg = s.waitReg := rfl
@[simp] theorem State.setI_font (i : Word) : (s.setI i).font = s.font := rfl
@[simp] theorem State.setI_fault (i : Word) : (s.setI i).fault = s.fault := rfl
@[simp] theorem State.setI_host (i : Word) : (s.setI i).host = s.host := rfl
@[simp] theorem State.setI_v (i : Word) (y : Reg) : (s.setI i).v y = s.v y := rfl

@[simp] theorem State.popTo_mem (k : Nat) (h : k < 16) : (s.popTo k h).mem = s.mem := rfl
@[simp] theorem State.popTo_V (k : Nat) (h : k < 16) : (s.popTo k h).V = s.V := rfl
@[simp] theorem State.popTo_I (k : Nat) (h : k < 16) : (s.popTo k h).I = s.I := rfl
@[simp] theorem State.popTo_pc (k : Nat) (h : k < 16) : (s.popTo k h).pc = s.stack[k] := rfl
@[simp] theorem State.popTo_sp (k : Nat) (h : k < 16) : (s.popTo k h).sp = ⟨k, by omega⟩ := rfl
@[simp] theorem State.popTo_stack (k : Nat) (h : k < 16) : (s.popTo k h).stack = s.stack := rfl
@[simp] theorem State.popTo_DT (k : Nat) (h : k < 16) : (s.popTo k h).DT = s.DT := rfl
@[simp] theorem State.popTo_ST (k : Nat) (h : k < 16) : (s.popTo k h).ST = s.ST := rfl
@[simp] theorem State.popTo_disp (k : Nat) (h : k < 16) : (s.popTo k h).disp = s.disp := rfl
@[simp] theorem State.popTo_draw (k : Nat) (h : k < 16) : (s.popTo k h).draw = s.draw := rfl
@[simp] theorem State.popTo_mode (k : Nat) (h : k < 16) : (s.popTo k h).mode = s.mode := rfl
@[simp] theorem State.popTo_waitReg (k : Nat) (h : k < 16) : (s.popTo k h).waitReg = s.waitReg := rfl
@[simp] theorem State.popTo_font (k : Nat) (h : k < 16) : (s.popTo k h).font = s.font := rfl
@[simp] theorem State.popTo_fault (k : Nat) (h : k < 16) : (s.popTo k h).fault = s.fault := rfl
@[simp] theorem State.popTo_host (k : Nat) (h : k < 16) : (s.popTo k h).host = s.host := rfl
@[simp] theorem State.popTo_v (k : Nat) (h : k < 16) (y : Reg) : (s.popTo k h).v y = s.v y := rfl

@[simp] theorem State.pushAt_mem (k : Nat) (h : k < 16) (w : Word) : (s.pushAt k h w).mem = s.mem := rfl
@[simp] theorem State.pushAt_V (k : Nat) (h : k < 16) (w : Word) : (s.pushAt k h w).V = s.V := rfl
@[simp] theorem State.pushAt_I (k : Nat) (h : k < 16) (w : Word) : (s.pushAt k h w).I = s.I := rfl
@[simp] theorem State.pushAt_pc (k : Nat) (h : k < 16) (w : Word) : (s.pushAt k h w).pc = w := rfl
@[simp] theorem State.pushAt_sp (k : Nat) (h : k < 16) (w : Word) : (s.pushAt k h w).sp = ⟨k + 1, by omega⟩ := rfl
@[simp] theorem State.pushAt_stack (k : Nat) (h : k < 16) (w : Word) : (s.pushAt k h w).stack = s.stack.set k (s.pc + 2) := rfl
@[simp] theorem State.pushAt_DT (k : Nat) (h : k < 16) (w : Word) : (s.pushAt k h w).DT = s.DT := rfl
@[simp] theorem State.pushAt_ST (k : Nat) (h : k < 16) (w : Word) : (s.pushAt k h w).ST = s.ST := rfl
@[simp] theorem State.pushAt_disp (k : Nat) (h : k < 16) (w : Word) : (s.pushAt k h w).disp = s.disp := rfl
@[simp] theorem State.pushAt_draw (k : Nat) (h : k < 16) (w : Word) : (s.pushAt k h w).draw = s.draw := rfl
@[simp] theorem State.pushAt_mode (k : Nat) (h : k < 16) (w : Word) : (s.pushAt k h w).mode = s.mode := rfl
@[simp] theorem State.pushAt_waitReg (k : Nat) (h : k < 16) (w : Word) : (s.pushAt k h w).waitReg = s.waitReg := rfl
@[simp] theorem State.pushAt_font (k : Nat) (h : k < 16) (w : Word) : (s.pushAt k h w).font = s.font := rfl
@[simp] theorem State.pushAt_fault (k : Nat) (h : k < 16) (w : Word) : (s.pushAt k h w).fault = s.fault := rfl
@[simp] theorem State.pushAt_host (k : Nat) (h : k < 16) (w : Word) : (s.pushAt k h w).host = s.host := rfl
@[simp] theorem State.pushAt_v (k : Nat) (h : k < 16) (w : Word) (y : Reg) : (s.pushAt k h w).v y = s.v y := rfl

@[simp] theorem State.drawn_mem (g : Drawing) : (s.drawn g).mem = s.mem := rfl
@[simp] theorem State.drawn_V (g : Drawing) : (s.drawn g).V = (s.setV VF (flag g.hit)).V := rfl
@[simp] theorem State.drawn_I (g : Drawing) : (s.drawn g).I = s.I := rfl
@[simp] theorem State.drawn_pc (g : Drawing) : (s.drawn g).pc = s.pc := rfl
@[simp] theorem State.drawn_sp (g : Drawing) : (s.drawn g).sp = s.sp := rfl
@[simp] theorem State.drawn_stack (g : Drawing) : (s.drawn g).stack = s.stack := rfl
@[simp] theorem State.drawn_DT (g : Drawing) : (s.drawn g).DT = s.DT := rfl
@[simp] theorem State.drawn_ST (g : Drawing) : (s.drawn g).ST = s.ST := rfl
@[simp] theorem State.drawn_disp (g : Drawing) : (s.drawn g).disp = g.disp := rfl
@[simp] theorem State.drawn_draw (g : Drawing) : (s.drawn g).draw = true := rfl
@[simp] theorem State.drawn_mode (g : Drawing) : (s.drawn g).mode = s.mode := rfl
@[simp] theorem State.drawn_waitReg (g : Drawing) : (s.drawn g).waitReg = s.waitReg := rfl
@[simp] theorem State.drawn_font (g : Drawing) : (s.drawn g).font = s.font := rfl
@[simp] theorem State.drawn_fault (g : Drawing) : (s.drawn g).fault = s.fault := rfl
@[simp] theorem State.drawn_host (g : Drawing) : (s.drawn g).host = s.host := rfl

@[simp] theorem State.ackDraw_mem : (s.ackDraw).mem = s.mem := rfl
@[simp] theorem State.ackDraw_V : (s.ackDraw).V = s.V := rfl
@[simp] theorem State.ackDraw_I : (s.ackDraw).I = s.I := rfl
@[simp] theorem State.ackDraw_pc : (s.ackDraw).pc = s.pc := rfl
@[simp] theorem State.ackDraw_sp : (s.ackDraw).sp = s.sp := rfl
@[simp] theorem State.ackDraw_stack : (s.ackDraw).stack = s.stack := rfl
@[simp] theorem State.ackDraw_DT : (s.ackDraw).DT = s.DT := rfl
@[simp] theorem State.ackDraw_ST : (s.ackDraw).ST = s.ST := rfl
@[simp] theorem State.ackDraw_disp : (s.ackDraw).disp = s.disp := rfl
@[simp] theorem State.ackDraw_draw : (s.ackDraw).draw = false := rfl
@[simp] theorem State.ackDraw_mode : (s.ackDraw).mode = s.mode := rfl
@[simp] theorem State.ackDraw_waitReg : (s.ackDraw).waitReg = s.waitReg := rfl
@[simp] theorem State.ackDraw_font : (s.ackDraw).font = s.font := rfl
@[simp] theorem State.ackDraw_fault : (s.ackDraw).fault = s.fault := rfl
@[simp] theorem State.ackDraw_host : (s.ackDraw).host = s.host := rfl
@[simp] theorem State.ackDraw_v (y : Reg) : (s.ackDraw).v y = s.v y := rfl

@[simp] theorem State.settled_mem : (s.settled).mem = s.mem := rfl
@[simp] theorem State.settled_V : (s.settled).V = s.V := rfl
@[simp] theorem State.settled_I : (s.settled).I = s.I := rfl
@[simp] theorem State.settled_pc : (s.settled).pc = s.pc := rfl
@[simp] theorem State.settled_sp : (s.settled).sp = s.sp := rfl
@[simp] theorem State.settled_stack : (s.settled).stack = s.stack := rfl
@[simp] theorem State.settled_DT : (s.settled).DT = s.DT := rfl
@[simp] theorem State.settled_ST : (s.settled).ST = s.ST := rfl
@[simp] theorem State.settled_disp : (s.settled).disp = s.disp := rfl
@[simp] theorem State.settled_draw : (s.settled).draw = s.draw := rfl
@[simp] theorem State.settled_mode : (s.settled).mode = s.mode := rfl
@[simp] theorem State.settled_waitReg : (s.settled).waitReg = s.waitReg := rfl
@[simp] theorem State.settled_font : (s.settled).font = s.font := rfl
@[simp] theorem State.settled_fault : (s.settled).fault = s.fault := rfl
@[simp] theorem State.settled_host : (s.settled).host = { s.host with loadable := false } := rfl
@[simp] theorem State.settled_v (y : Reg) : (s.settled).v y = s.v y := rfl

@[simp] theorem State.beginCycle_mem (k : Keys) (r : Byte) : (s.beginCycle k r).mem = s.mem := rfl
@[simp] theorem State.beginCycle_V (k : Keys) (r : Byte) : (s.beginCycle k r).V = s.V := rfl
@[simp] theorem State.beginCycle_I (k : Keys) (r : Byte) : (s.beginCycle k r).I = s.I := rfl
@[simp] theorem State.beginCycle_pc (k : Keys) (r : Byte) : (s.beginCycle k r).pc = s.pc := rfl
@[simp] theorem State.beginCycle_sp (k : Keys) (r : Byte) : (s.beginCycle k r).sp = s.sp := rfl
@[simp] theorem State.beginCycle_stack (k : Keys) (r : Byte) : (s.beginCycle k r).stack = s.stack := rfl
@[simp] theorem State.beginCycle_DT (k : Keys) (r : Byte) : (s.beginCycle k r).DT = s.DT := rfl
@[simp] theorem State.beginCycle_ST (k : Keys) (r : Byte) : (s.beginCycle k r).ST = s.ST := rfl
@[simp] theorem State.beginCycle_disp (k : Keys) (r : Byte) : (s.beginCycle k r).disp = s.disp := rfl
@[simp] theorem State.beginCycle_draw (k : Keys) (r : Byte) : (s.beginCycle k r).draw = s.draw := rfl
@[simp] theorem State.beginCycle_mode (k : Keys) (r : Byte) : (s.beginCycle k r).mode = s.mode := rfl
@[simp] theorem State.beginCycle_waitReg (k : Keys) (r : Byte) : (s.beginCycle k r).waitReg = s.waitReg := rfl
@[simp] theorem State.beginCycle_font (k : Keys) (r : Byte) : (s.beginCycle k r).font = s.font := rfl
@[simp] theorem State.beginCycle_fault (k : Keys) (r : Byte) : (s.beginCycle k r).fault = s.fault := rfl
@[simp] theorem State.beginCycle_host (k : Keys) (r : Byte) : (s.beginCycle k r).host = { s.host with keys := k, rnd := r, loadable := false } := rfl
@[simp] theorem State.beginCycle_v (k : Keys) (r : Byte) (y : Reg) : (s.beginCycle k r).v y = s.v y := rfl

@[simp] theorem State.storeAtPc_mem (w : Word) : (s.storeAtPc w).mem = Memory.writeBytes s.mem s.pc.toNat (bytesOfWord w) := rfl
@[simp] theorem State.storeAtPc_V (w : Word) : (s.storeAtPc w).V = s.V := rfl
@[simp] theorem State.storeAtPc_I (w : Word) : (s.storeAtPc w).I = s.I := rfl
@[simp] theorem State.storeAtPc_pc (w : Word) : (s.storeAtPc w).pc = s.pc := rfl
@[simp] theorem State.storeAtPc_sp (w : Word) : (s.storeAtPc w).sp = s.sp := rfl
@[simp] theorem State.storeAtPc_stack (w : Word) : (s.storeAtPc w).stack = s.stack := rfl
@[simp] theorem State.storeAtPc_DT (w : Word) : (s.storeAtPc w).DT = s.DT := rfl
@[simp] theorem State.storeAtPc_ST (w : Word) : (s.storeAtPc w).ST = s.ST := rfl
@[simp] theorem State.storeAtPc_disp (w : Word) : (s.storeAtPc w).disp = s.disp := rfl
@[simp] theorem State.storeAtPc_draw (w : Word) : (s.storeAtPc w).draw = s.draw := rfl
@[simp] theorem State.storeAtPc_mode (w : Word) : (s.storeAtPc w).mode = s.mode := rfl
@[simp] theorem State.storeAtPc_waitReg (w : Word) : (s.storeAtPc w).waitReg = s.waitReg := rfl
@[simp] theorem State.storeAtPc_font (w : Word) : (s.storeAtPc w).font = s.font := rfl
@[simp] theorem State.storeAtPc_fault (w : Word) : (s.storeAtPc w).fault = s.fault := rfl
@[simp] theorem State.storeAtPc_host (w : Word) : (s.storeAtPc w).host = s.host := rfl
@[simp] theorem State.storeAtPc_v (w : Word) (y : Reg) : (s.storeAtPc w).v y = s.v y := rfl

@[simp] theorem State.tick_mem : s.tick.mem = s.mem := by unfold State.tick; split <;> rfl
@[simp] theorem State.tick_V : s.tick.V = s.V := by unfold State.tick; split <;> rfl
@[simp] theorem State.tick_I : s.tick.I = s.I := by unfold State.tick; split <;> rfl
@[simp] theorem State.tick_pc : s.tick.pc = s.pc := by unfold State.tick; split <;> rfl
@[simp] theorem State.tick_sp : s.tick.sp = s.sp := by unfold State.tick; split <;> rfl
@[simp] theorem State.tick_stack : s.tick.stack = s.stack := by unfold State.tick; split <;> rfl
theorem State.tick_DT : s.tick.DT = if s.mode = .faulted then s.DT else countDown s.DT := by
  unfold State.tick; split <;> rfl
theorem State.tick_ST : s.tick.ST = if s.mode = .faulted then s.ST else countDown s.ST := by
  unfold State.tick; split <;> rfl
@[simp] theorem State.tick_disp : s.tick.disp = s.disp := by unfold State.tick; split <;> rfl
@[simp] theorem State.tick_draw : s.tick.draw = s.draw := by unfold State.tick; split <;> rfl
@[simp] theorem State.tick_mode : s.tick.mode = s.mode := by unfold State.tick; split <;> rfl
@[simp] theorem State.tick_waitReg : s.tick.waitReg = s.waitReg := by unfold State.tick; split <;> rfl
@[simp] theorem State.tick_font : s.tick.font = s.font := by unfold State.tick; split <;> rfl
@[simp] theorem State.tick_fault : s.tick.fault = s.fault := by unfold State.tick; split <;> rfl
@[simp] theorem State.tick_host : s.tick.host = s.host := by unfold State.tick; split <;> rfl

@[simp] theorem State.takeTransaction_mem : s.takeTransaction.mem = s.mem := by unfold State.takeTransaction; split <;> rfl
@[simp] theorem State.takeTransaction_V : s.takeTransaction.V = s.V := by unfold State.takeTransaction; split <;> rfl
@[simp] theorem State.takeTransaction_I : s.takeTransaction.I = s.I := by unfold State.takeTransaction; split <;> rfl
@[simp] theorem State.takeTransaction_pc : s.takeTransaction.pc = s.pc := by unfold State.takeTransaction; split <;> rfl
@[simp] theorem State.takeTransaction_sp : s.takeTransaction.sp = s.sp := by unfold State.takeTransaction; split <;> rfl
@[simp] theorem State.takeTransaction_stack : s.takeTransaction.stack = s.stack := by unfold State.takeTransaction; split <;> rfl
@[simp] theorem State.takeTransaction_DT : s.takeTransaction.DT = s.DT := by unfold State.takeTransaction; split <;> rfl
@[simp] theorem State.takeTransaction_ST : s.takeTransaction.ST = s.ST := by unfold State.takeTransaction; split <;> rfl
@[simp] theorem State.takeTransaction_disp : s.takeTransaction.disp = s.disp := by unfold State.takeTransaction; split <;> rfl
@[simp] theorem State.takeTransaction_draw : s.takeTransaction.draw = s.draw := by unfold State.takeTransaction; split <;> rfl
@[simp] theorem State.takeTransaction_mode : s.takeTransaction.mode = s.mode := by unfold State.takeTransaction; split <;> rfl
@[simp] theorem State.takeTransaction_waitReg : s.takeTransaction.waitReg = s.waitReg := by unfold State.takeTransaction; split <;> rfl
@[simp] theorem State.takeTransaction_font : s.takeTransaction.font = s.font := by unfold State.takeTransaction; split <;> rfl
@[simp] theorem State.takeTransaction_fault : s.takeTransaction.fault = s.fault := by unfold State.takeTransaction; split <;> rfl
@[simp] theorem State.takeTransaction_v (y : Reg) : s.takeTransaction.v y = s.v y := by
  unfold State.takeTransaction; split <;> rfl

@[simp] theorem State.initCore_mem : s.initCore.mem = Memory.writeBytes [] 0 s.font.toList := rfl
@[simp] theorem State.initCore_font : s.initCore.font = s.font := rfl
@[simp] theorem State.initCore_V : s.initCore.V = State.reset.V := rfl
@[simp] theorem State.initCore_I : s.initCore.I = State.reset.I := rfl
@[simp] theorem State.initCore_pc : s.initCore.pc = State.reset.pc := rfl
@[simp] theorem State.initCore_sp : s.initCore.sp = State.reset.sp := rfl
@[simp] theorem State.initCore_stack : s.initCore.stack = State.reset.stack := rfl
@[simp] theorem State.initCore_DT : s.initCore.DT = State.reset.DT := rfl
@[simp] theorem State.initCore_ST : s.initCore.ST = State.reset.ST := rfl
@[simp] theorem State.initCore_disp : s.initCore.disp = State.reset.disp := rfl
@[simp] theorem State.initCore_draw : s.initCore.draw = State.reset.draw := rfl
@[simp] theorem State.initCore_mode : s.initCore.mode = State.reset.mode := rfl
@[simp] theorem State.initCore_waitReg : s.initCore.waitReg = State.reset.waitReg := rfl
@[simp] theorem State.initCore_fault : s.initCore.fault = State.reset.fault := rfl
@[simp] theorem State.initCore_host : s.initCore.host = { s.host with loadable := true } := rfl

@[simp] theorem State.setVF_eq (b : Byte) : s.setVF b = s.setV VF b := rfl
@[simp] theorem State.subInto_eq (x y : Reg) : s.subInto x y = s.setV x (s.v x - s.v y) := rfl
@[simp] theorem State.subnInto_eq (x y : Reg) : s.subnInto x y = s.setV x (s.v y - s.v x) := rfl
@[simp] theorem State.shiftRight_eq (x : Reg) : s.shiftRight x = s.setV x (s.v x >>> 1) := rfl
@[simp] theorem State.shiftLeft_eq (x : Reg) : s.shiftLeft x = s.setV x (s.v x <<< 1) := rfl

end Sys2Proof.Machine
end

