-- ==== Sys2Proof/Laws/Memory.lean ====
section
/-! SUPPORT. The laws of memory: a read after a write, and that every operation keeps the canonical form (R50, R59). -/

namespace Sys2Proof.Machine

theorem Memory.read_erase (m : Memory) (a c : Nat) :
    (m.erase a).read c = if c = a then unlisted a else m.read c := by
  induction m with
  | nil => by_cases h : c = a <;> simp [Memory.erase, Memory.read, h]
  | cons e m ih =>
    obtain ⟨k, b⟩ := e
    simp only [Memory.erase, Memory.read]
    by_cases hk : k = a
    · rw [if_pos hk, ih]
      by_cases hc : c = a
      · rw [if_pos hc, if_pos hc]
      · rw [if_neg hc, if_neg hc, if_neg (fun h => hc (h.symm.trans hk))]
    · rw [if_neg hk, Memory.read, ih]
      by_cases hc : c = a
      · rw [if_pos hc, if_pos hc, if_neg (fun h => hk (h.trans hc))]
      · rw [if_neg hc, if_neg hc]

theorem Memory.read_insert (m : Memory) (a : Nat) (b : Byte) (c : Nat) :
    (m.insert a b).read c = if c = a then b else m.read c := by
  induction m with
  | nil => simp only [Memory.insert, Memory.read, eq_comm (a := a)]
  | cons e m ih =>
    obtain ⟨k, d⟩ := e
    unfold Memory.insert
    split
    · simp only [Memory.read, eq_comm (a := a)]
    · split
      · rename_i h; subst h
        simp only [Memory.read, eq_comm (a := a)]
        by_cases h : c = a
        · rw [if_pos h, if_pos h]
        · rw [if_neg h, if_neg h, if_neg h]
      · rename_i h
        simp only [Memory.read, ih]
        by_cases hc : c = a
        · rw [if_pos hc, if_neg (fun hk => h (hk.trans hc).symm), if_pos hc]
        · rw [if_neg hc, if_neg hc]

/-- A read after a write: the written byte at its address, every other byte as before (R59). -/
theorem Memory.read_write (m : Memory) (a : Nat) (b : Byte) (c : Nat) :
    (m.write a b).read c = if c = a then b else m.read c := by
  unfold Memory.write
  split
  · rename_i h; rw [Memory.read_erase, h]
  · exact Memory.read_insert m a b c

/-- Reading after writing a range: the bytes in order inside it, every other byte as before (R59). -/
theorem Memory.read_writeBytes (m : Memory) (a : Nat) (bs : List Byte) (c : Nat) :
    (m.writeBytes a bs).read c = if a ≤ c ∧ c < a + bs.length then bs.getD (c - a) 0 else m.read c := by
  induction bs generalizing m a with
  | nil =>
    have : ¬ (a ≤ c ∧ c < a + ([] : List Byte).length) := by simp only [List.length_nil]; omega
    rw [Memory.writeBytes, if_neg this]
  | cons b bs ih =>
    rw [Memory.writeBytes, ih, Memory.read_write]
    by_cases h1 : c = a
    · subst h1
      have h3 : ¬ (c + 1 ≤ c ∧ c < c + 1 + bs.length) := by omega
      have h4 : c ≤ c ∧ c < c + (b :: bs).length := by simp only [List.length_cons]; omega
      rw [if_neg h3, if_pos rfl, if_pos h4, Nat.sub_self, List.getD_cons_zero]
    · by_cases h2 : a ≤ c ∧ c < a + (b :: bs).length
      · have h3 : a + 1 ≤ c ∧ c < a + 1 + bs.length := by simp at h2; omega
        have h4 : c - a = (c - (a + 1)) + 1 := by omega
        rw [if_pos h3, if_pos h2, h4, List.getD_cons_succ]
      · have h3 : ¬ (a + 1 ≤ c ∧ c < a + 1 + bs.length) := by simp at h2; omega
        rw [if_neg h3, if_neg h2, if_neg h1]

theorem Memory.mem_erase {m : Memory} {a : Nat} {c : Host.Cell} (h : c ∈ m.erase a) : c ∈ m := by
  induction m with
  | nil => exact h
  | cons e m ih =>
    obtain ⟨k, b⟩ := e
    unfold Memory.erase at h
    split at h
    · exact List.mem_cons_of_mem _ (ih h)
    · rcases List.mem_cons.1 h with h | h
      · exact h ▸ List.mem_cons_self
      · exact List.mem_cons_of_mem _ (ih h)

theorem Memory.mem_insert {m : Memory} {a : Nat} {b : Byte} {c : Host.Cell} (h : c ∈ m.insert a b) :
    c = (a, b) ∨ c ∈ m := by
  induction m with
  | nil => simpa [Memory.insert] using h
  | cons e m ih =>
    obtain ⟨k, d⟩ := e
    unfold Memory.insert at h
    split at h
    · simpa using h
    · split at h
      · rcases List.mem_cons.1 h with h | h
        · exact .inl h
        · exact .inr (List.mem_cons_of_mem _ h)
      · rcases List.mem_cons.1 h with h | h
        · exact .inr (h ▸ List.mem_cons_self)
        · exact (ih h).imp_right (List.mem_cons_of_mem _)

theorem Memory.pairwise_erase {m : Memory} {a : Nat} (h : m.Pairwise (fun c d => c.1 < d.1)) :
    (m.erase a).Pairwise (fun c d => c.1 < d.1) := by
  induction m with
  | nil => exact h
  | cons e m ih =>
    obtain ⟨k, b⟩ := e
    rw [List.pairwise_cons] at h
    unfold Memory.erase
    split
    · exact ih h.2
    · exact List.pairwise_cons.2 ⟨fun c hc => h.1 c (Memory.mem_erase hc), ih h.2⟩

theorem Memory.pairwise_insert {m : Memory} {a : Nat} {b : Byte} (h : m.Pairwise (fun c d => c.1 < d.1)) :
    (m.insert a b).Pairwise (fun c d => c.1 < d.1) := by
  induction m with
  | nil => simp [Memory.insert]
  | cons e m ih =>
    obtain ⟨k, d⟩ := e
    have h' := List.pairwise_cons.1 h
    unfold Memory.insert
    split
    · rename_i hlt
      refine List.pairwise_cons.2 ⟨fun c hc => ?_, h⟩
      rcases List.mem_cons.1 hc with hc | hc
      · rw [hc]; exact hlt
      · exact Nat.lt_trans hlt (h'.1 c hc)
    · split
      · rename_i he; subst he
        exact List.pairwise_cons.2 ⟨h'.1, h'.2⟩
      · rename_i h1 h2
        refine List.pairwise_cons.2 ⟨fun c hc => ?_, ih h'.2⟩
        rcases Memory.mem_insert hc with hc | hc
        · rw [hc]; show k < a; omega
        · exact h'.1 c hc

/-- A write below 0x1000 keeps the canonical form. -/
theorem Memory.wf_write {m : Memory} {a : Nat} {b : Byte} (ha : a < 0x1000) (h : Memory.wf m) :
    Memory.wf (m.write a b) := by
  unfold Memory.write
  split
  · exact ⟨Memory.pairwise_erase h.1, fun c hc => h.2 c (Memory.mem_erase hc)⟩
  · rename_i hb
    refine ⟨Memory.pairwise_insert h.1, fun c hc => ?_⟩
    rcases Memory.mem_insert hc with hc | hc
    · rw [hc]; exact ⟨ha, hb⟩
    · exact h.2 c hc

/-- Writing a range below 0x1000 keeps the canonical form. -/
theorem Memory.wf_writeBytes {m : Memory} {a : Nat} {bs : List Byte} (ha : a + bs.length ≤ 0x1000)
    (h : Memory.wf m) : Memory.wf (m.writeBytes a bs) := by
  induction bs generalizing m a with
  | nil => exact h
  | cons b bs ih =>
    simp only [List.length_cons] at ha
    exact ih (by omega) (Memory.wf_write (by omega) h)

@[simp] theorem Memory.length_readBytes (m : Memory) (a len : Nat) : (m.readBytes a len).length = len := by
  simp [Memory.readBytes]

@[simp] theorem Memory.getElem_readBytes (m : Memory) (a len k : Nat) (h : k < (m.readBytes a len).length) :
    (m.readBytes a len)[k] = m.read (a + k) := by
  simp [Memory.readBytes]

/-! ### The memory initialize leaves -/

/-- Beyond FONT an unlisted address reads as 0 (R39). -/
theorem unlisted_beyond_font {a : Nat} (h : 0x50 ≤ a) : unlisted a = 0 := by
  have : Config.fontDefault[a]? = none := List.getElem?_eq_none h
  rw [unlisted, this]; rfl

/-- The memory of a reset machine: its FONT below 0x050, 0 above (R39). -/
theorem State.resetWith_read (font : Font) (a : Nat) :
    Memory.read (State.resetWith font).mem a = if h : a < 0x50 then font[a] else 0 := by
  show Memory.read (Memory.writeBytes [] 0 font.toList) a = _
  rw [Memory.read_writeBytes, Vector.length_toList]
  split
  · rename_i h
    rw [dif_pos (by omega), Nat.sub_zero, List.getD_eq_getElem?_getD,
      List.getElem?_eq_getElem (by rw [Vector.length_toList]; omega), Option.getD_some, Vector.getElem_toList]
  · rename_i h
    rw [dif_neg (by omega)]
    exact unlisted_beyond_font (by omega)

theorem State.resetWith_wf (font : Font) : Memory.wf (State.resetWith font).mem :=
  Memory.wf_writeBytes (by rw [Vector.length_toList]; omega) ⟨.nil, fun _ h => nomatch h⟩

/-- State.reset is the reset state of the machine whose FONT is the default. -/
theorem State.resetWith_default : State.resetWith Config.font = State.reset := by decide

end Sys2Proof.Machine
end

