-- ==== Sys2Proof/Laws/Ops.lean ====
section
/-! SUPPORT. What each shared operation can do, said once: the bound check and the accesses under it (R55), the end of a
memory instruction (R106), registers (R21), the key scan (R101). -/

namespace Sys2Proof.Machine

/-! ### The bound check and the accesses -/

theorem rangeFault_eq_none {a len : Nat} : rangeFault a len = none ↔ len = 0 ∨ a + len ≤ 0x1000 := by
  unfold rangeFault; split <;> simp_all

theorem rangeFault_eq_some {a len : Nat} {bad : Word} :
    rangeFault a len = some bad ↔
      0 < len ∧ 0x1000 < a + len ∧ bad = if a > 0xFFF then BitVec.ofNat 16 a else 0x1000 := by
  unfold rangeFault
  by_cases h : len = 0 ∨ a + len ≤ 0x1000
  · rw [if_pos h]; constructor
    · intro hc; cases hc
    · omega
  · rw [if_neg h, Option.some.injEq]
    constructor
    · intro hb; exact ⟨by omega, by omega, hb.symm⟩
    · rintro ⟨-, -, hb⟩; exact hb.symm

/-- Everything a range read can answer (R55). -/
theorem State.readRange_cases (s : State) (a len : Nat) :
    ((len = 0 ∨ a + len ≤ 0x1000) ∧ s.readRange a len = .ok (s.mem.readBytes a len)) ∨
    (0 < len ∧ 0x1000 < a + len ∧
      s.readRange a len = .error (if a > 0xFFF then BitVec.ofNat 16 a else 0x1000)) := by
  unfold State.readRange
  cases h : rangeFault a len with
  | none => exact .inl ⟨rangeFault_eq_none.1 h, rfl⟩
  | some bad =>
    obtain ⟨h1, h2, h3⟩ := rangeFault_eq_some.1 h
    exact .inr ⟨h1, h2, by rw [h3]⟩

/-- Everything a range write can answer (R55): the bytes written, or nothing written and the address. -/
theorem State.writeRange_cases (s : State) (a : Nat) (bs : List Byte) :
    ((bs.length = 0 ∨ a + bs.length ≤ 0x1000) ∧
      s.writeRange a bs = .ok { s with mem := s.mem.writeBytes a bs }) ∨
    (0 < bs.length ∧ 0x1000 < a + bs.length ∧
      s.writeRange a bs = .error (if a > 0xFFF then BitVec.ofNat 16 a else 0x1000)) := by
  unfold State.writeRange
  cases h : rangeFault a bs.length with
  | none => exact .inl ⟨rangeFault_eq_none.1 h, rfl⟩
  | some bad =>
    obtain ⟨h1, h2, h3⟩ := rangeFault_eq_some.1 h
    exact .inr ⟨h1, h2, by rw [h3]⟩

@[simp] theorem State.commit_ok (s : State) (w : Word) (t : State) : s.commit w (.ok t) = t := rfl

@[simp] theorem State.commit_error (s : State) (w bad : Word) :
    s.commit w (.error bad) = s.raise .memoryBound (some w) (some bad) := rfl

/-! ### Registers -/

theorem VF_toNat : VF.toNat = 15 := rfl

/-- A register after a write: the byte written, or what it was. -/
theorem State.setV_v (s : State) (x : Reg) (b : Byte) (y : Reg) :
    (s.setV x b).v y = if y = x then b else s.v y := by
  unfold State.v State.setV
  rw [Vector.getElem_set]
  by_cases h : y = x
  · subst h; simp
  · have : ¬ x.toNat = y.toNat := fun he => h (BitVec.eq_of_toNat_eq he.symm)
    simp [this, h]

@[simp] theorem State.setV_v_same (s : State) (x : Reg) (b : Byte) : (s.setV x b).v x = b := by
  simp [State.setV_v]

theorem State.setV_v_ne (s : State) {x y : Reg} (b : Byte) (h : y ≠ x) : (s.setV x b).v y = s.v y := by
  simp [State.setV_v, h]

theorem State.drawn_v (s : State) (g : Drawing) (y : Reg) :
    (s.drawn g).v y = if y = VF then flag g.hit else s.v y :=
  State.setV_v s VF (flag g.hit) y

@[simp] theorem State.length_regsUpTo (s : State) (x : Reg) : (s.regsUpTo x).length = x.toNat + 1 := by
  simp [State.regsUpTo]

theorem State.getElem_regsUpTo (s : State) (x : Reg) (k : Nat) (h : k < (s.regsUpTo x).length) :
    (s.regsUpTo x)[k] = s.v (BitVec.ofNat 4 k) := by
  simp [State.regsUpTo]

/-- A write of a register range changes V alone. -/
theorem State.setRegsFrom_eq (s : State) (i : Nat) (bs : List Byte) :
    s.setRegsFrom i bs = { s with V := (s.setRegsFrom i bs).V } := by
  induction bs generalizing s i with
  | nil => rfl
  | cons b bs ih => exact ih (s.setV (BitVec.ofNat 4 i) b) (i + 1)

/-- The registers after a range write: the bytes in order inside it, every other register as before (R215). -/
theorem State.setRegsFrom_v (s : State) (i : Nat) (bs : List Byte) (hi : i + bs.length ≤ 16) (y : Reg) :
    (s.setRegsFrom i bs).v y = if i ≤ y.toNat ∧ y.toNat < i + bs.length then bs.getD (y.toNat - i) 0 else s.v y := by
  induction bs generalizing s i with
  | nil =>
    have : ¬ (i ≤ y.toNat ∧ y.toNat < i + ([] : List Byte).length) := by simp only [List.length_nil]; omega
    rw [State.setRegsFrom, if_neg this]
  | cons b bs ih =>
    simp only [List.length_cons] at hi
    rw [State.setRegsFrom, ih _ _ (by omega), State.setV_v]
    have hy : y = BitVec.ofNat 4 i ↔ y.toNat = i := by
      rw [← BitVec.toNat_inj, BitVec.toNat_ofNat, Nat.mod_eq_of_lt (by omega)]
    by_cases h1 : y.toNat = i
    · have h2 : ¬ (i + 1 ≤ y.toNat ∧ y.toNat < i + 1 + bs.length) := by omega
      rw [if_neg h2, if_pos (hy.2 h1), if_pos (by simp only [List.length_cons]; omega), h1]
      simp
    · by_cases h2 : i ≤ y.toNat ∧ y.toNat < i + (b :: bs).length
      · have h3 : i + 1 ≤ y.toNat ∧ y.toNat < i + 1 + bs.length := by simp only [List.length_cons] at h2; omega
        have h4 : y.toNat - i = (y.toNat - (i + 1)) + 1 := by omega
        rw [if_pos h3, if_pos h2, h4, List.getD_cons_succ]
      · have h3 : ¬ (i + 1 ≤ y.toNat ∧ y.toNat < i + 1 + bs.length) := by simp only [List.length_cons] at h2; omega
        rw [if_neg h3, if_neg h2, if_neg (fun he => h1 (hy.1 he))]

/-! ### The key scan -/

theorem firstPressed_eq_some {keys : Keys} {k : Nat} :
    firstPressed keys = some k ↔ k < 16 ∧ keys.getLsbD k = true ∧ ∀ j < k, keys.getLsbD j = false := by
  unfold firstPressed
  rw [List.find?_range_eq_some]
  simp only [Bool.not_eq_true', List.mem_range]
  constructor <;> (rintro ⟨h1, h2, h3⟩; exact ⟨h2, h1, h3⟩)

theorem firstPressed_eq_none {keys : Keys} : firstPressed keys = none ↔ keys = 0 := by
  unfold firstPressed
  rw [List.find?_eq_none]
  constructor
  · intro h
    apply BitVec.eq_of_getLsbD_eq
    intro i hi
    simpa using h i (List.mem_range.2 hi)
  · rintro rfl; simp

end Sys2Proof.Machine
end

