-- ==== Sys2Proof/Laws/Display.lean ====
section
/-! SUPPORT. What drawing does to each pixel (R172 to R175): flipping, one row of a sprite, all rows. -/

namespace Sys2Proof.Machine

/-- A pixel after a flip: inverted at the place, as it was elsewhere (R174). -/
theorem Display.pixel_flip (d : Display) (r r' : Fin 32) (c c' : Fin 64) :
    (Display.flip d r c).pixel r' c' = if r' = r ∧ c' = c then !d.pixel r c else d.pixel r' c' := by
  unfold Display.pixel Display.flip
  rw [Vector.getElem_set]
  by_cases hr : r' = r
  · subst hr
    simp only [if_true, true_and]
    rw [Vector.getElem_set]
    by_cases hc : c' = c
    · subst hc; simp [Display.pixel]
    · have : ¬ c.val = c'.val := fun h => hc (Fin.ext h.symm)
      rw [if_neg this, if_neg hc]
  · have : ¬ r.val = r'.val := fun h => hr (Fin.ext h.symm)
    rw [if_neg this, if_neg (fun h => hr h.1)]

@[simp] theorem Display.pixel_clear (r : Fin 32) (c : Fin 64) : Display.clear.pixel r c = false := by
  simp [Display.pixel, Display.clear]

/-- Two displays with the same pixels are the same display. -/
theorem Display.ext_pixel {d e : Display} (h : ∀ r c, d.pixel r c = e.pixel r c) : d = e := by
  apply Vector.ext
  intro i hi
  apply Vector.ext
  intro j hj
  exact h ⟨i, hi⟩ ⟨j, hj⟩

/-- A pixel after one sprite bit: XORed with the bit at the bit's place (R174). -/
theorem Drawing.bit_pixel (g : Drawing) (r r' : Fin 32) (c c' : Fin 64) (b : Bool) :
    (g.bit r c b).disp.pixel r' c' = (g.disp.pixel r' c' ^^ (decide (r' = r ∧ c' = c) && b)) := by
  unfold Drawing.bit
  cases b with
  | false => simp
  | true =>
    simp only [if_true, Display.pixel_flip]
    by_cases h : r' = r ∧ c' = c
    · obtain ⟨rfl, rfl⟩ := h; simp
    · simp [h]

theorem Drawing.bit_hit (g : Drawing) (r : Fin 32) (c : Fin 64) (b : Bool) :
    (g.bit r c b).hit = (g.hit || (b && g.disp.pixel r c)) := by
  unfold Drawing.bit; cases b <;> simp

/-- The distance from coordinate `start` forward to `dest`, wrapping at `size`. -/
def wrapDist (size start dest : Nat) : Nat := (dest + size - start % size) % size

theorem wrapDist_lt {size start dest : Nat} (h : 0 < size) : wrapDist size start dest < size :=
  Nat.mod_lt _ h

theorem column_eq (cx k : Nat) (hk : k < 64) (c : Fin 64) : column (cx + k) = c ↔ wrapDist 64 cx c = k := by
  unfold column wrapDist
  have := c.isLt
  constructor
  · rintro rfl; simp only [Fin.ofNat]; omega
  · intro h; apply Fin.ext; simp only [Fin.ofNat]; omega

theorem row_eq (cy k : Nat) (hk : k < 32) (r : Fin 32) : row (cy + k) = r ↔ wrapDist 32 cy r = k := by
  unfold row wrapDist
  have := r.isLt
  constructor
  · rintro rfl; simp only [Fin.ofNat]; omega
  · intro h; apply Fin.ext; simp only [Fin.ofNat]; omega

/-- The pixels after the first `k` columns of a sprite row: XORed with the row's bits, each at its wrapped column. -/
theorem Drawing.bits_pixel (g : Drawing) (cx : Nat) (r : Fin 32) (b : Byte) (k : Nat) (hk : k ≤ 64) (r' : Fin 32)
    (c : Fin 64) :
    (g.bits cx r b k).disp.pixel r' c =
      (g.disp.pixel r' c ^^ (decide (r' = r ∧ wrapDist 64 cx c < k) && spriteBit b (wrapDist 64 cx c))) := by
  induction k with
  | zero => simp [Drawing.bits]
  | succ k ih =>
    rw [Drawing.bits, Drawing.bit_pixel, ih (by omega)]
    have hc := column_eq cx k (by omega) c
    by_cases hr : r' = r
    · by_cases hd : wrapDist 64 cx c = k
      · simp [hr, hd, hc.2 hd]
      · have hcol : ¬ c = column (cx + k) := fun h => hd (hc.1 h.symm)
        have : wrapDist 64 cx c < k + 1 ↔ wrapDist 64 cx c < k := by omega
        simp [hr, hcol, this]
    · simp [hr]

/-- The collision after the first `k` columns of a sprite row: a set pixel lay under a 1 bit (R173). -/
theorem Drawing.bits_hit (g : Drawing) (cx : Nat) (r : Fin 32) (b : Byte) (k : Nat) (hk : k ≤ 64) :
    (g.bits cx r b k).hit = true ↔
      g.hit = true ∨ ∃ c : Fin 64, wrapDist 64 cx c < k ∧ spriteBit b (wrapDist 64 cx c) = true ∧ g.disp.pixel r c = true := by
  induction k with
  | zero => simp [Drawing.bits]
  | succ k ih =>
    rw [Drawing.bits, Drawing.bit_hit, Bool.or_eq_true, ih (by omega), Bool.and_eq_true, or_assoc]
    refine or_congr Iff.rfl ?_
    have hcol : wrapDist 64 cx (column (cx + k)) = k := (column_eq cx k (by omega) _).1 rfl
    have hpix : (g.bits cx r b k).disp.pixel r (column (cx + k)) = g.disp.pixel r (column (cx + k)) := by
      rw [Drawing.bits_pixel _ _ _ _ _ (by omega), hcol]; simp
    rw [hpix]
    constructor
    · rintro (⟨c, h1, h2, h3⟩ | ⟨h1, h2⟩)
      · exact ⟨c, by omega, h2, h3⟩
      · exact ⟨column (cx + k), by omega, hcol.symm ▸ h1, h2⟩
    · rintro ⟨c, h1, h2, h3⟩
      by_cases hd : wrapDist 64 cx c = k
      · have := (column_eq cx k (by omega) c).2 hd
        subst this
        exact .inr ⟨hd ▸ h2, h3⟩
      · exact .inl ⟨c, by omega, h2, h3⟩

/-- Bit (`r`, `c`) of a whole sprite placed at (`cx`, `cy`): the bit of the one row and column that wrap to it. -/
def spriteAt (cx cy : Nat) (sprite : List Byte) (r : Fin 32) (c : Fin 64) : Bool :=
  decide (wrapDist 32 cy r < sprite.length ∧ wrapDist 64 cx c < 8) &&
    spriteBit (sprite.getD (wrapDist 32 cy r) 0) (wrapDist 64 cx c)

theorem spriteAt_cons (cx cy : Nat) (b : Byte) (bs : List Byte) (hl : bs.length < 32) (r : Fin 32) (c : Fin 64) :
    spriteAt cx cy (b :: bs) r c =
      ((decide (r = row cy ∧ wrapDist 64 cx c < 8) && spriteBit b (wrapDist 64 cx c)) ||
        spriteAt cx (cy + 1) bs r c) ∧
    ¬ ((r = row cy) ∧ wrapDist 32 (cy + 1) r < bs.length) := by
  have hrow := row_eq cy 0 (by omega) r
  rw [Nat.add_zero] at hrow
  have hlt := r.isLt
  have hsucc : wrapDist 32 cy r ≠ 0 → wrapDist 32 cy r = wrapDist 32 (cy + 1) r + 1 := by
    unfold wrapDist; omega
  have hzero : wrapDist 32 cy r = 0 → wrapDist 32 (cy + 1) r = 31 := by unfold wrapDist; omega
  unfold spriteAt
  by_cases h0 : wrapDist 32 cy r = 0
  · have hr : r = row cy := (hrow.2 h0).symm
    have h31 := hzero h0
    have hn : ¬ wrapDist 32 (cy + 1) r < bs.length := by omega
    exact ⟨by simp [h0, ← hr, hn], fun h => hn h.2⟩
  · have hr : ¬ r = row cy := fun h => h0 (hrow.1 h.symm)
    have hs := hsucc h0
    refine ⟨?_, fun h => hr h.1⟩
    rw [hs]
    simp [hr]

/-- The pixels after all rows of a sprite: XORed with the sprite, each bit at its wrapped place (R172, R174, R175). -/
theorem Drawing.rows_pixel (g : Drawing) (cx cy : Nat) (sprite : List Byte) (hl : sprite.length ≤ 32) (r : Fin 32)
    (c : Fin 64) :
    (g.rows cx cy sprite).disp.pixel r c = (g.disp.pixel r c ^^ spriteAt cx cy sprite r c) := by
  induction sprite generalizing g cy with
  | nil => simp [Drawing.rows, spriteAt]
  | cons b bs ih =>
    simp only [List.length_cons] at hl
    obtain ⟨h1, h2⟩ := spriteAt_cons cx cy b bs (by omega) r c
    rw [Drawing.rows, ih _ _ (by omega), Drawing.bits_pixel _ _ _ _ _ (by omega), h1, Bool.xor_assoc]
    congr 1
    by_cases hr : r = row cy
    · have : ¬ wrapDist 32 (cy + 1) r < bs.length := fun h => h2 ⟨hr, h⟩
      simp [spriteAt, this]
    · simp [hr]

/-- The collision after all rows: some set pixel lay under a 1 bit of the sprite (R173). -/
theorem Drawing.rows_hit (g : Drawing) (cx cy : Nat) (sprite : List Byte) (hl : sprite.length ≤ 32) :
    (g.rows cx cy sprite).hit = true ↔
      g.hit = true ∨ ∃ r c, spriteAt cx cy sprite r c = true ∧ g.disp.pixel r c = true := by
  induction sprite generalizing g cy with
  | nil => simp [Drawing.rows, spriteAt]
  | cons b bs ih =>
    simp only [List.length_cons] at hl
    rw [Drawing.rows, ih _ _ (by omega), Drawing.bits_hit _ _ _ _ _ (by omega), or_assoc]
    refine or_congr Iff.rfl ?_
    constructor
    · rintro (⟨c, h1, h2, h3⟩ | ⟨r, c, h1, h2⟩)
      · refine ⟨row cy, c, ?_, h3⟩
        rw [(spriteAt_cons cx cy b bs (by omega) _ _).1]
        simp [h1, h2]
      · obtain ⟨e1, e2⟩ := spriteAt_cons cx cy b bs (by omega) r c
        have hlt : wrapDist 32 (cy + 1) r < bs.length := by
          simp [spriteAt] at h1; exact h1.1.1
        have hr : ¬ r = row cy := fun h => e2 ⟨h, hlt⟩
        refine ⟨r, c, by rw [e1, h1, Bool.or_true], ?_⟩
        rw [Drawing.bits_pixel _ _ _ _ _ (by omega)] at h2
        simpa [hr] using h2
    · rintro ⟨r, c, h1, h2⟩
      obtain ⟨e1, e2⟩ := spriteAt_cons cx cy b bs (by omega) r c
      rw [e1, Bool.or_eq_true] at h1
      rcases h1 with h1 | h1
      · simp at h1
        obtain ⟨⟨rfl, h4⟩, h5⟩ := h1
        exact .inl ⟨c, h4, h5, h2⟩
      · have hlt : wrapDist 32 (cy + 1) r < bs.length := by
          simp [spriteAt] at h1; exact h1.1.1
        have hr : ¬ r = row cy := fun h => e2 ⟨h, hlt⟩
        refine .inr ⟨r, c, h1, ?_⟩
        rw [Drawing.bits_pixel _ _ _ _ _ (by omega)]
        simpa [hr] using h2

/-- The sprite bit at a pixel, as R172's loops name it: row `k` and column `j` of the sprite wrap to the pixel and the bit is
1. -/
theorem spriteAt_iff (cx cy : Nat) (sprite : List Byte) (hl : sprite.length ≤ 32) (r : Fin 32) (c : Fin 64) :
    spriteAt cx cy sprite r c = true ↔
      ∃ k < sprite.length, ∃ j < 8, (cy + k) % 32 = r ∧ (cx + j) % 64 = c ∧ spriteBit (sprite.getD k 0) j = true := by
  unfold spriteAt
  rw [Bool.and_eq_true, decide_eq_true_eq]
  have hr := r.isLt
  have hc := c.isLt
  constructor
  · rintro ⟨⟨h1, h2⟩, h3⟩
    refine ⟨_, h1, _, h2, ?_, ?_, h3⟩ <;> (unfold wrapDist; omega)
  · rintro ⟨k, hk, j, hj, h1, h2, h3⟩
    have e1 : wrapDist 32 cy r = k := by unfold wrapDist; omega
    have e2 : wrapDist 64 cx c = j := by unfold wrapDist; omega
    rw [e1, e2]
    exact ⟨⟨hk, hj⟩, h3⟩

end Sys2Proof.Machine
end

