-- ==== Sys2Proof/Laws/PerInstr.lean ====
section
/-! SUPPORT. What is said of every instruction as syntax, one lemma per constructor: its word fits its row of the opcode
map (R74, R75). -/

namespace Sys2Proof.Laws.FitsRow

/-- The instruction's row is one of the opcode map's, and its word matches it: `w &&& mask = match` (R74). -/
def Statement (i : Instr) : Prop := i.row ∈ opcodeMap ∧ encode i &&& i.row.mask = i.row.pattern

theorem cls : Statement .cls := ⟨mem_opcodeMap rfl, rfl⟩

theorem ret : Statement .ret := ⟨mem_opcodeMap rfl, rfl⟩

theorem jp (nnn : Addr) : Statement (.jp nnn) := ⟨mem_opcodeMap rfl, mask_formatFA _ _⟩

theorem call (nnn : Addr) : Statement (.call nnn) := ⟨mem_opcodeMap rfl, mask_formatFA _ _⟩

theorem seImm (x : Reg) (nn : Byte) : Statement (.seImm x nn) := ⟨mem_opcodeMap rfl, mask_formatFI _ _ _⟩

theorem sneImm (x : Reg) (nn : Byte) : Statement (.sneImm x nn) := ⟨mem_opcodeMap rfl, mask_formatFI _ _ _⟩

theorem seReg (x y : Reg) : Statement (.seReg x y) := ⟨mem_opcodeMap rfl, mask_formatFR _ _ _ _⟩

theorem ldImm (x : Reg) (nn : Byte) : Statement (.ldImm x nn) := ⟨mem_opcodeMap rfl, mask_formatFI _ _ _⟩

theorem addImm (x : Reg) (nn : Byte) : Statement (.addImm x nn) := ⟨mem_opcodeMap rfl, mask_formatFI _ _ _⟩

theorem ldReg (x y : Reg) : Statement (.ldReg x y) := ⟨mem_opcodeMap rfl, mask_formatFR _ _ _ _⟩

theorem orReg (x y : Reg) : Statement (.orReg x y) := ⟨mem_opcodeMap rfl, mask_formatFR _ _ _ _⟩

theorem andReg (x y : Reg) : Statement (.andReg x y) := ⟨mem_opcodeMap rfl, mask_formatFR _ _ _ _⟩

theorem xorReg (x y : Reg) : Statement (.xorReg x y) := ⟨mem_opcodeMap rfl, mask_formatFR _ _ _ _⟩

theorem addReg (x y : Reg) : Statement (.addReg x y) := ⟨mem_opcodeMap rfl, mask_formatFR _ _ _ _⟩

theorem subReg (x y : Reg) : Statement (.subReg x y) := ⟨mem_opcodeMap rfl, mask_formatFR _ _ _ _⟩

theorem shr (x y : Reg) : Statement (.shr x y) := ⟨mem_opcodeMap rfl, mask_formatFR _ _ _ _⟩

theorem subnReg (x y : Reg) : Statement (.subnReg x y) := ⟨mem_opcodeMap rfl, mask_formatFR _ _ _ _⟩

theorem shl (x y : Reg) : Statement (.shl x y) := ⟨mem_opcodeMap rfl, mask_formatFR _ _ _ _⟩

theorem sneReg (x y : Reg) : Statement (.sneReg x y) := ⟨mem_opcodeMap rfl, mask_formatFR _ _ _ _⟩

theorem ldI (nnn : Addr) : Statement (.ldI nnn) := ⟨mem_opcodeMap rfl, mask_formatFA _ _⟩

theorem jpV0 (nnn : Addr) : Statement (.jpV0 nnn) := ⟨mem_opcodeMap rfl, mask_formatFA _ _⟩

theorem rnd (x : Reg) (nn : Byte) : Statement (.rnd x nn) := ⟨mem_opcodeMap rfl, mask_formatFI _ _ _⟩

theorem drw (x y : Reg) (n : Nat) : Statement (.drw x y n) := ⟨mem_opcodeMap rfl, mask_formatFD _ _ _ _⟩

theorem skp (x : Reg) : Statement (.skp x) := ⟨mem_opcodeMap rfl, mask_formatFX _ _ _⟩

theorem sknp (x : Reg) : Statement (.sknp x) := ⟨mem_opcodeMap rfl, mask_formatFX _ _ _⟩

theorem ldVxDT (x : Reg) : Statement (.ldVxDT x) := ⟨mem_opcodeMap rfl, mask_formatFX _ _ _⟩

theorem ldVxK (x : Reg) : Statement (.ldVxK x) := ⟨mem_opcodeMap rfl, mask_formatFX _ _ _⟩

theorem ldDTVx (x : Reg) : Statement (.ldDTVx x) := ⟨mem_opcodeMap rfl, mask_formatFX _ _ _⟩

theorem ldSTVx (x : Reg) : Statement (.ldSTVx x) := ⟨mem_opcodeMap rfl, mask_formatFX _ _ _⟩

theorem addI (x : Reg) : Statement (.addI x) := ⟨mem_opcodeMap rfl, mask_formatFX _ _ _⟩

theorem ldF (x : Reg) : Statement (.ldF x) := ⟨mem_opcodeMap rfl, mask_formatFX _ _ _⟩

theorem ldB (x : Reg) : Statement (.ldB x) := ⟨mem_opcodeMap rfl, mask_formatFX _ _ _⟩

theorem ldMemVx (x : Reg) : Statement (.ldMemVx x) := ⟨mem_opcodeMap rfl, mask_formatFX _ _ _⟩

theorem ldVxMem (x : Reg) : Statement (.ldVxMem x) := ⟨mem_opcodeMap rfl, mask_formatFX _ _ _⟩

end Sys2Proof.Laws.FitsRow
end

