-- ==== Sys2Proof/Tests/Slice0.lean ====
section
/-! SUPPORT. The model's own tests: a few small facts per instruction, their results taken from 95_test_vectors.md (each
named by its vector) or from the rule's example, and for every statement with hypotheses a witness that meets them. -/

namespace Sys2Proof.Tests

open Sys2Proof.Machine

/-! ### Well-formedness (R81): the one check, refused past its bound -/

theorem test_wellFormed_refuses_height_16 : (Instr.drw 0 0 16).WellFormed = false := by decide

theorem test_wellFormed_height_15 : (Instr.drw 0xF 0xF 15).WellFormed = true := by decide

/-! ### Decoding: one word for each constructor, written out from R71 and R75 -/

theorem test_decode_cls : decodeTableWord 16 0x00E0 = some .cls ∧ encode .cls = 0x00E0 := by decide

theorem test_decode_ret : decodeTableWord 16 0x00EE = some .ret ∧ encode .ret = 0x00EE := by decide

theorem test_decode_jp : decodeTableWord 16 0x1AAA = some (.jp 0xAAA) ∧ encode (.jp 0xAAA) = 0x1AAA := by decide

theorem test_decode_call : decodeTableWord 16 0x2555 = some (.call 0x555) ∧ encode (.call 0x555) = 0x2555 := by decide

theorem test_decode_seImm : decodeTableWord 16 0x3A5C = some (.seImm 0xA 0x5C) ∧ encode (.seImm 0xA 0x5C) = 0x3A5C := by decide

theorem test_decode_sneImm : decodeTableWord 16 0x4B6D = some (.sneImm 0xB 0x6D) ∧ encode (.sneImm 0xB 0x6D) = 0x4B6D := by decide

theorem test_decode_seReg : decodeTableWord 16 0x5120 = some (.seReg 1 2) ∧ encode (.seReg 1 2) = 0x5120 := by decide

theorem test_decode_ldImm : decodeTableWord 16 0x6A42 = some (.ldImm 0xA 0x42) ∧ encode (.ldImm 0xA 0x42) = 0x6A42 := by decide

theorem test_decode_addImm : decodeTableWord 16 0x7220 = some (.addImm 2 0x20) ∧ encode (.addImm 2 0x20) = 0x7220 := by decide

theorem test_decode_ldReg : decodeTableWord 16 0x8010 = some (.ldReg 0 1) ∧ encode (.ldReg 0 1) = 0x8010 := by decide

theorem test_decode_orReg : decodeTableWord 16 0x8CD1 = some (.orReg 0xC 0xD) ∧ encode (.orReg 0xC 0xD) = 0x8CD1 := by decide

theorem test_decode_andReg : decodeTableWord 16 0x8CD2 = some (.andReg 0xC 0xD) ∧ encode (.andReg 0xC 0xD) = 0x8CD2 := by decide

theorem test_decode_xorReg : decodeTableWord 16 0x8CD3 = some (.xorReg 0xC 0xD) ∧ encode (.xorReg 0xC 0xD) = 0x8CD3 := by decide

theorem test_decode_addReg : decodeTableWord 16 0x8F14 = some (.addReg 0xF 1) ∧ encode (.addReg 0xF 1) = 0x8F14 := by decide

theorem test_decode_subReg : decodeTableWord 16 0x80F5 = some (.subReg 0 0xF) ∧ encode (.subReg 0 0xF) = 0x80F5 := by decide

theorem test_decode_shr : decodeTableWord 16 0x81F6 = some (.shr 1 0xF) ∧ encode (.shr 1 0xF) = 0x81F6 := by decide

theorem test_decode_subnReg : decodeTableWord 16 0x8127 = some (.subnReg 1 2) ∧ encode (.subnReg 1 2) = 0x8127 := by decide

theorem test_decode_shl : decodeTableWord 16 0x830E = some (.shl 3 0) ∧ encode (.shl 3 0) = 0x830E := by decide

theorem test_decode_sneReg : decodeTableWord 16 0x9120 = some (.sneReg 1 2) ∧ encode (.sneReg 1 2) = 0x9120 := by decide

theorem test_decode_ldI : decodeTableWord 16 0xA123 = some (.ldI 0x123) ∧ encode (.ldI 0x123) = 0xA123 := by decide

theorem test_decode_jpV0 : decodeTableWord 16 0xB510 = some (.jpV0 0x510) ∧ encode (.jpV0 0x510) = 0xB510 := by decide

theorem test_decode_rnd : decodeTableWord 16 0xC50F = some (.rnd 5 0x0F) ∧ encode (.rnd 5 0x0F) = 0xC50F := by decide

theorem test_decode_drw : decodeTableWord 16 0xD12F = some (.drw 1 2 15) ∧ encode (.drw 1 2 15) = 0xD12F := by decide

theorem test_decode_skp : decodeTableWord 16 0xE19E = some (.skp 1) ∧ encode (.skp 1) = 0xE19E := by decide

theorem test_decode_sknp : decodeTableWord 16 0xE1A1 = some (.sknp 1) ∧ encode (.sknp 1) = 0xE1A1 := by decide

theorem test_decode_ldVxDT : decodeTableWord 16 0xF307 = some (.ldVxDT 3) ∧ encode (.ldVxDT 3) = 0xF307 := by decide

theorem test_decode_ldVxK : decodeTableWord 16 0xF50A = some (.ldVxK 5) ∧ encode (.ldVxK 5) = 0xF50A := by decide

theorem test_decode_ldDTVx : decodeTableWord 16 0xF215 = some (.ldDTVx 2) ∧ encode (.ldDTVx 2) = 0xF215 := by decide

theorem test_decode_ldSTVx : decodeTableWord 16 0xF218 = some (.ldSTVx 2) ∧ encode (.ldSTVx 2) = 0xF218 := by decide

theorem test_decode_addI : decodeTableWord 16 0xF41E = some (.addI 4) ∧ encode (.addI 4) = 0xF41E := by decide

theorem test_decode_ldF : decodeTableWord 16 0xF229 = some (.ldF 2) ∧ encode (.ldF 2) = 0xF229 := by decide

theorem test_decode_ldB : decodeTableWord 16 0xF433 = some (.ldB 4) ∧ encode (.ldB 4) = 0xF433 := by decide

theorem test_decode_ldMemVx : decodeTableWord 16 0xFF55 = some (.ldMemVx 0xF) ∧ encode (.ldMemVx 0xF) = 0xFF55 := by decide

theorem test_decode_ldVxMem : decodeTableWord 16 0xF265 = some (.ldVxMem 2) ∧ encode (.ldVxMem 2) = 0xF265 := by decide

/-- Vectors T5 to T14: illegal words, refused by the name of their group. -/
theorem test_decode_illegal :
    decode 0x5121 = .illegal .group5 ∧ decode 0x9121 = .illegal .group9 ∧ decode 0x8008 = .illegal .group8 ∧
    decode 0x800F = .illegal .group8 ∧ decode 0xE09F = .illegal .groupE ∧ decode 0xF000 = .illegal .groupF ∧
    decode 0xF0FF = .illegal .groupF ∧ decode 0x0123 = .illegal .group0 ∧ decode 0x00E1 = .illegal .group0 ∧
    decode 0x0000 = .illegal .group0 := by decide

theorem test_decode_truncated : decodeBytes [0x12] = (.illegal .truncated, [0x12]) := by decide

theorem test_decode_stream : decodeBytes [0x25, 0x55, 0x00] = (.instr (.call 0x555), [0x00]) := by decide

/-! ### One step on a small state -/

/-- The state after one step that runs the word, from the state given. -/
def after (s : State) (w : Nat) : State :=
  match step (s.withFetchWord 16 w) with
  | .next t => t
  | .fault _ => s
  | .refused _ => s

/-- The state after one step, from the state given. -/
def stepped (s : State) : State :=
  match step s with
  | .next t => t
  | .fault _ => s
  | .refused _ => s

/-- Reset with registers set. -/
def regs (l : List (Reg × Byte)) : State := l.foldl (fun s p => s.setV p.1 p.2) State.reset

/-- A state whose next transactions are these. -/
def State.queue (s : State) (l : List Transaction) : State := { s with host := { s.host with pending := l } }

/-- Vectors T1 and W1. -/
theorem test_ldImm : (after State.reset 0x6A42).v 0xA = 0x42 ∧ (after State.reset 0x6A42).pc = 0x202 := by decide

/-- Vectors A2 and A3. -/
theorem test_addImm_wraps_no_flag :
    (after (regs [(0, 0xFF), (0xF, 0x5A)]) 0x7001).v 0 = 0 ∧ (after (regs [(0, 0xFF), (0xF, 0x5A)]) 0x7001).v 0xF = 0x5A ∧
    (after (regs [(0xF, 2)]) 0x7FFF).v 0xF = 1 := by decide

/-- Vectors A4 to A8. -/
theorem test_logic :
    (after (regs [(1, 0x33)]) 0x8010).v 0 = 0x33 ∧ (after (regs [(0, 0x0F), (1, 0xF0), (0xF, 0x77)]) 0x8011).v 0 = 0xFF ∧
    (after (regs [(0, 0x0F), (1, 0xF0), (0xF, 0x77)]) 0x8011).v 0xF = 0x77 ∧
    (after (regs [(0, 0x3C), (1, 0x0F)]) 0x8012).v 0 = 0x0C ∧ (after (regs [(0, 0xFF), (1, 0x0F)]) 0x8013).v 0 = 0xF0 := by
  decide

/-- Vectors A10 and A12. -/
theorem test_addReg :
    (after (regs [(0, 0xFF), (1, 1)]) 0x8014).v 0 = 0 ∧ (after (regs [(0, 0xFF), (1, 1)]) 0x8014).v 0xF = 1 ∧
    (after (regs [(1, 0xFF), (0xF, 5)]) 0x8F14).v 0xF = 1 := by decide

/-- Vectors A15 and A16. -/
theorem test_subReg :
    (after (regs [(0, 5), (1, 5)]) 0x8015).v 0xF = 0 ∧ (after (regs [(1, 1)]) 0x8015).v 0 = 0xFF := by decide

/-- Vectors A17, A18 and A19: VF as an operand. -/
theorem test_subReg_alias :
    (after (regs [(0xF, 9), (1, 3)]) 0x8F15).v 0xF = 0xFE ∧ (after (regs [(0, 9), (0xF, 3)]) 0x80F5).v 0 = 8 ∧
    (after (regs [(0, 9), (0xF, 3)]) 0x80F5).v 0xF = 1 ∧ (after (regs [(0xF, 7)]) 0x8FF5).v 0xF = 0 := by decide

/-- Vectors A20 and A23, and T15: y is ignored. -/
theorem test_shr :
    (after (regs [(3, 5)]) 0x8306).v 3 = 2 ∧ (after (regs [(3, 5)]) 0x8306).v 0xF = 1 ∧
    (after (regs [(0xF, 3)]) 0x8F06).v 0xF = 0 ∧ (after (regs [(1, 5)]) 0x81F6).v 1 = 2 := by decide

/-- Vectors A25 and A26. -/
theorem test_subnReg :
    (after (regs [(0, 5), (1, 5)]) 0x8017).v 0xF = 1 ∧ (after (regs [(0, 1)]) 0x8017).v 0 = 0xFF := by decide

/-- Vectors A27, A28 and A29: VF as an operand. -/
theorem test_subnReg_alias :
    (after (regs [(0xF, 3), (1, 9)]) 0x8F17).v 0xF = 8 ∧ (after (regs [(0, 3), (0xF, 9)]) 0x80F7).v 0 = 0xFE ∧
    (after (regs [(0, 3), (0xF, 9)]) 0x80F7).v 0xF = 1 ∧ (after (regs [(0xF, 7)]) 0x8FF7).v 0xF = 0 := by decide

/-- Vectors A30, A33 and A34. -/
theorem test_shl :
    (after (regs [(3, 0x81)]) 0x830E).v 3 = 2 ∧ (after (regs [(3, 0x81)]) 0x830E).v 0xF = 1 ∧
    (after (regs [(0xF, 0x80)]) 0x8F0E).v 0xF = 2 ∧ (after (regs [(0xF, 0x7F)]) 0x8F0E).v 0xF = 0 := by decide

/-- Vectors A35 and A37: the random byte is the transaction's. -/
theorem test_rnd :
    (after (State.queue State.reset [.runCycle 0 0xA7]) 0xC50F).v 5 = 0x07 ∧
    (after (State.queue State.reset [.runCycle 0 0xA7]) 0xC5FF).v 5 = 0xA7 := by decide

/-- Vectors J2 and J1. -/
theorem test_ret :
    (after { State.reset with sp := 1, stack := State.reset.stack.set 0 0x202 } 0x00EE).pc = 0x202 ∧
    (after { State.reset with sp := 1, stack := State.reset.stack.set 0 0x202 } 0x00EE).sp = 0 ∧
    (after State.reset 0x00EE).fault = some ⟨.stack, 0x200, some 0x00EE, none⟩ := by decide

/-- Vector W2. -/
theorem test_jp : (after State.reset 0x1AAA).pc = 0xAAA := by decide

/-- Vectors W3 and J4. -/
theorem test_call :
    (after State.reset 0x2555).pc = 0x555 ∧ (after State.reset 0x2555).stack[0] = 0x202 ∧
    (after State.reset 0x2555).sp = 1 ∧ (after { State.reset with sp := 15 } 0x2300).sp = 16 := by decide

/-- Vector J3. -/
theorem test_call_full :
    (after { State.reset with sp := 16 } 0x2300).fault = some ⟨.stack, 0x200, some 0x2300, none⟩ ∧
    (after { State.reset with sp := 16 } 0x2300).pc = 0x200 := by decide

/-- Vectors J8 to J11. -/
theorem test_skip_imm :
    (after (regs [(3, 0x10)]) 0x3310).pc = 0x204 ∧ (after (regs [(3, 0x11)]) 0x3310).pc = 0x202 ∧
    (after (regs [(3, 0x10)]) 0x4310).pc = 0x202 ∧ (after (regs [(3, 0x11)]) 0x4310).pc = 0x204 := by decide

/-- Vectors J12, J14 and J15. -/
theorem test_skip_reg :
    (after (regs [(1, 7), (2, 7)]) 0x5120).pc = 0x204 ∧ (after (regs [(1, 7), (2, 8)]) 0x9120).pc = 0x204 ∧
    (after State.reset 0x9110).pc = 0x202 := by decide

/-- Vector J20; and J22's word and start under R127, bits 11..8 being part of nnn and V0 the register added (log 17). -/
theorem test_jpV0 :
    (after (regs [(0, 0xFF)]) 0xBFFF).pc = 0x10FE ∧ (after (regs [(5, 0x99)]) 0xB510).pc = 0x510 := by decide

/-- Vector D1: a set pixel is cleared and the draw flag set. -/
theorem test_cls :
    Display.pixel (after { State.reset with disp := Display.flip State.reset.disp 3 7 } 0x00E0).disp 3 7 = false ∧
    (after State.reset 0x00E0).draw = true := by decide

/-- A sprite row of eight 1 bits at 0x300, I pointing to it, and the two coordinates. -/
def spriteState (b x y : Byte) : State :=
  { regs [(0, x), (1, y)] with mem := [(0x300, b)], I := 0x300 }

/-- Vector W9: both axes wrap. -/
theorem test_drw_wraps :
    Display.pixel (after (spriteState 0xFF 63 31) 0xD011).disp 31 63 = true ∧
    Display.pixel (after (spriteState 0xFF 63 31) 0xD011).disp 31 6 = true ∧
    Display.pixel (after (spriteState 0xFF 63 31) 0xD011).disp 31 7 = false ∧
    (after (spriteState 0xFF 63 31) 0xD011).v 0xF = 0 := by decide

/-- Vector W8, second draw, and D7: a collision, and a sprite past 0xFFF. -/
theorem test_drw_collision_and_bound :
    (after { spriteState 0x80 10 5 with disp := Display.flip State.reset.disp 5 10 } 0xD011).v 0xF = 1 ∧
    (after { State.reset with I := 0x0FFC } 0xD015).fault =
      some ⟨.memoryBound, 0x200, some 0xD015, some 0x1000⟩ := by decide

/-- Vectors K1 and K6. -/
theorem test_skp :
    (after (State.queue { regs [(1, 0xA)] with pc := 0x220 } [.runCycle 0x0400 0]) 0xE19E).pc = 0x224 ∧
    (after (regs [(0, 0x10)]) 0xE09E).fault = some ⟨.keyIndex, 0x200, some 0xE09E, some 0x10⟩ := by decide

/-- Vectors K3 and K7. -/
theorem test_sknp :
    (after (State.queue { regs [(1, 0xA)] with pc := 0x220 } [.runCycle 0 0]) 0xE1A1).pc = 0x224 ∧
    (after (State.queue (regs [(0, 0xFF)]) [.runCycle 0x8000 0]) 0xE0A1).fault =
      some ⟨.keyIndex, 0x200, some 0xE0A1, some 0xFF⟩ := by decide

/-- Vectors K8 to K10. -/
theorem test_timers :
    (after { State.reset with DT := 0x3C } 0xF307).v 3 = 0x3C ∧ (after (regs [(2, 0x3C)]) 0xF215).DT = 0x3C ∧
    (after (regs [(2, 5)]) 0xF218).ST = 5 ∧ (after (regs [(2, 5)]) 0xF218).soundActive = true := by decide

/-- Vector K13: the cycle that begins the wait does not scan. -/
theorem test_ldVxK :
    (after (State.queue State.reset [.runCycle 8 0]) 0xF50A).mode = .awaitingKey ∧
    (after (State.queue State.reset [.runCycle 8 0]) 0xF50A).waitReg = 5 ∧
    (after (State.queue State.reset [.runCycle 8 0]) 0xF50A).pc = 0x202 ∧
    (after (State.queue State.reset [.runCycle 8 0]) 0xF50A).v 5 = 0 := by decide

/-- Vector K12: the lowest pressed key resolves the wait. -/
theorem test_resolveWait :
    (stepped (State.queue { State.reset with mode := .awaitingKey, waitReg := 15 } [.runCycle 0x88 0])).v 0xF = 3 ∧
    (stepped (State.queue { State.reset with mode := .awaitingKey, waitReg := 15 } [.runCycle 0x88 0])).mode =
      .running := by decide

/-- Vectors W4 and S20. -/
theorem test_ldI : (after { State.reset with I := 0xFFFF } 0xA123).I = 0x123 := by decide

/-- Vectors S13, S15 and S16. -/
theorem test_addI :
    (after { regs [(0, 1)] with I := 0x0FFF } 0xF01E).v 0xF = 1 ∧ (after { regs [(0, 2)] with I := 0xFFFF } 0xF01E).I = 1 ∧
    (after { regs [(0, 2)] with I := 0xFFFF } 0xF01E).v 0xF = 0 ∧
    (after { regs [(0xF, 1)] with I := 0x0FFF } 0xFF1E).I = 0x1000 := by decide

/-- Vectors S18 and S19. -/
theorem test_ldF :
    (after (regs [(0, 0xA)]) 0xF029).I = 0x032 ∧ (after (regs [(0, 0xFF)]) 0xF029).I = 0x4FB := by decide

/-- Vectors S9 and S10. -/
theorem test_ldB :
    Memory.readBytes (after { regs [(0, 255)] with I := 0x0FFD } 0xF033).mem 0xFFD 3 = [2, 5, 5] ∧
    (after { regs [(0, 255)] with I := 0x0FFE } 0xF033).fault =
      some ⟨.memoryBound, 0x200, some 0xF033, some 0x1000⟩ := by decide

/-- Vectors S6 and S3. -/
theorem test_ldMemVx :
    Memory.readBytes (after { regs [(0, 1), (1, 2), (2, 3), (3, 4)] with I := 0x400 } 0xF255).mem 0x400 4 = [1, 2, 3, 0] ∧
    (after { State.reset with I := 0x0FF1 } 0xFF55).fault =
      some ⟨.memoryBound, 0x200, some 0xFF55, some 0x1000⟩ := by decide

/-- Vectors S7 and S5. -/
theorem test_ldVxMem :
    (after { regs [(3, 0xEE)] with mem := [(0x400, 7), (0x401, 8), (0x402, 9), (0x403, 1)], I := 0x400 } 0xF265).regsUpTo 3 =
      [7, 8, 9, 0xEE] ∧
    (after { State.reset with I := 0x1005 } 0xF065).fault =
      some ⟨.memoryBound, 0x200, some 0xF065, some 0x1005⟩ := by decide

/-! ### Cycles and transactions -/

/-- Vectors T3 and T4. -/
theorem test_fetch_bound :
    (stepped (State.queue { State.reset with pc := 0x0FFF } [.runCycle 0 0])).fault =
      some ⟨.memoryBound, 0x0FFF, none, some 0x1000⟩ ∧
    (stepped (State.queue { State.reset with pc := 0x1002 } [.runCycle 0 0])).fault =
      some ⟨.memoryBound, 0x1002, none, some 0x1002⟩ := by decide

/-- Vector T14: with nothing loaded, the first cycle after reset meets the word 0x0000. -/
theorem test_decode_fault :
    (stepped (State.queue State.reset [.runCycle 0 0])).fault = some ⟨.decode, 0x200, some 0x0000, none⟩ ∧
    (stepped (State.queue State.reset [.runCycle 0 0])).pc = 0x200 := by decide

/-- Vectors K14, K15 and K16. -/
theorem test_tick :
    (stepped (State.queue { State.reset with DT := 2, mode := .awaitingKey } [.tick])).DT = 1 ∧
    (stepped (State.queue { State.reset with ST := 1 } [.tick])).DT = 0 ∧
    (stepped (State.queue { State.reset with DT := 5, mode := .faulted } [.tick])).DT = 5 := by decide

/-- Vector D13. -/
theorem test_ackDraw : (stepped (State.queue { State.reset with draw := true } [.ackDraw])).draw = false := by decide

/-- Vectors X2 and X4: an image of odd length, and a second load refused. -/
theorem test_loadProgram :
    Memory.readBytes (stepped (State.queue State.reset [.loadProgram [0x00, 0xE0, 0x12]])).mem 0x200 4 =
      [0x00, 0xE0, 0x12, 0x00] ∧
    (match step (State.queue { State.reset with host := { HostSide.reset with loadable := false } } [.loadProgram []]) with
      | .refused r => r = .loadNotAfterInitialize
      | .next _ => False
      | .fault _ => False) := by
  refine ⟨by decide, rfl⟩

/-- Vector X1, in part: FAULTED is left for the reset state (T17). -/
theorem test_init :
    (stepped (State.queue { State.reset with mode := .faulted, pc := 0x300, DT := 9 } [.init])).pc = 0x200 ∧
    (stepped (State.queue { State.reset with mode := .faulted, pc := 0x300, DT := 9 } [.init])).mode = .running := by decide

/-- R38, first and last glyph of the default font, through memory. -/
theorem test_font :
    Memory.readBytes [] 0x000 5 = [0xF0, 0x90, 0x90, 0x90, 0xF0] ∧ Memory.readBytes [] 0x04B 5 = [0xF0, 0x80, 0xF0, 0x80, 0x80] ∧
    Memory.readBytes [] 0x050 1 = [0x00] := by decide

/-- R8: a machine with another FONT loads that one at initialize. -/
theorem test_font_parameter :
    Memory.readBytes (stepped (State.queue { State.reset with font := Vector.replicate 80 0xAA } [.init])).mem 0x04E 3 =
      [0xAA, 0xAA, 0x00] := by decide

/-- Writing an address's reset contents takes it off the list: equal memories are equal data. -/
theorem test_memory_canonical :
    Memory.write (Memory.write [] 0x300 7) 0x300 0 = [] ∧ Memory.write [(0x300, 1), (0x400, 2)] 0x350 3 =
      [(0x300, 1), (0x350, 3), (0x400, 2)] ∧ Memory.write [] 0x000 0xF0 = [] := by decide

/-! ### Witnesses: for every statement with hypotheses, a state and operands that meet them, each clause at a boundary -/

/-- A running state that fetches `w` at `p`, its next transaction a run_cycle. -/
def fetching (p : Word) (w : Nat) : State :=
  State.withFetchWord (State.queue { State.reset with pc := p } [.runCycle 5 7]) 16 w

theorem witness_DecodeEncode : (Instr.drw 0xF 0 15).WellFormed = true := by decide

theorem witness_EncodeDecode : decode 0x8AB6 = .instr (.shr 0xA 0xB) := by decide

theorem witness_DecodeByMaskAndMatch :
    decode 0x5120 = .instr (.seReg 1 2) ∧ (⟨0xF00F, 0x5000⟩ : OpcodeRow) ∈ opcodeMap ∧
    (0x5120 : Word) &&& 0xF00F = 0x5000 ∧ State.reset.mode = .running ∧ State.reset.fetch = .ok 0x0000 ∧
    ∀ r ∈ opcodeMap, (0x0000 : Word) &&& r.mask ≠ r.pattern := by
  refine ⟨by decide, by decide, by decide, rfl, rfl, by decide⟩

theorem witness_IllegalWords :
    State.reset.mode = .running ∧ State.reset.fetch = .ok 0x0000 ∧ decode 0x0000 = .illegal .group0 := ⟨rfl, rfl, by decide⟩

/-- At the last pc a word can be fetched from. -/
theorem witness_StepRunsDecoded :
    (fetching 0xFFE 0x6A42).nextTransaction = .runCycle 5 7 ∧ (fetching 0xFFE 0x6A42).mode = .running ∧
    (fetching 0xFFE 0x6A42).pc.toNat ≤ 0xFFE ∧
    decode (wordOfBytes (Memory.read (fetching 0xFFE 0x6A42).mem 0xFFE) (Memory.read (fetching 0xFFE 0x6A42).mem 0xFFF)) =
      .instr (.ldImm 0xA 0x42) := by
  refine ⟨rfl, rfl, by decide, by decide⟩

theorem witness_FetchBounds :
    0x0FFE < ({ State.reset with pc := 0x0FFF } : State).pc.toNat ∧ ({ State.reset with pc := 0x0FFF } : State).mode = .running ∧
    ({ State.reset with pc := 0x0FFE } : State).pc.toNat ≤ 0x0FFE := by decide

theorem witness_BoundsBeforeAccess :
    (0 < 2 ∧ 0xFFF < (0x0FFF : Word).toNat + 2 - 1) ∧ (0x0FFE : Word).toNat + 2 - 1 ≤ 0xFFF ∧
    ((0 : Nat) = 0 ∨ (0xFFFF : Word).toNat + 0 - 1 ≤ 0xFFF) ∧
    (0 < [0, 0].length ∧ 0xFFF < (0x0FFF : Word).toNat + [0, 0].length - 1) ∧
    (0x0FFE : Word).toNat + [0, 0].length - 1 ≤ 0xFFF := by decide

/-- Key 15 alone, and no key. -/
theorem witness_ResolveWait :
    (State.queue { State.reset with mode := .awaitingKey } [.runCycle 0x8000 0]).nextTransaction = .runCycle 0x8000 0 ∧
    (State.queue { State.reset with mode := .awaitingKey } [.runCycle 0x8000 0]).mode = .awaitingKey ∧
    (0x8000 : Keys).getLsbD 15 = true ∧ (∀ j, j < 15 → (0x8000 : Keys).getLsbD j = false) ∧
    (∀ k, k < 16 → (0 : Keys).getLsbD k = false) := by
  refine ⟨rfl, rfl, by decide, by decide, by decide⟩

theorem witness_FaultEntry :
    State.reset.mode ≠ .faulted ∧ ∃ t, cycle State.reset = .next t ∧ t.mode = .faulted :=
  ⟨by decide, _, rfl, by decide⟩

/-- Both cases of the table, at the boundary sp = 16 and sp = 15. -/
theorem witness_FaultTable :
    faultOf (.call 0) { State.reset with sp := 16 } = some (.stack, none) ∧
    faultOf (.call 0) { State.reset with sp := 15 } = none := by decide

/-- FAULTED with each transaction next. -/
theorem witness_FaultedIsSticky :
    (State.queue { State.reset with mode := .faulted } [.runCycle 1 2]).mode = .faulted ∧
    (State.queue { State.reset with mode := .faulted } [.runCycle 1 2]).nextTransaction = .runCycle 1 2 ∧
    (State.queue { State.reset with mode := .faulted } [.tick]).nextTransaction = .tick ∧
    (State.queue { State.reset with mode := .faulted } [.ackDraw]).nextTransaction = .ackDraw ∧
    (State.queue { State.reset with mode := .faulted } [.init]).nextTransaction = .init ∧
    ∃ t, step (State.queue { State.reset with mode := .faulted } [.init]) = .next t ∧ t.mode ≠ .faulted :=
  ⟨rfl, rfl, rfl, rfl, rfl, _, rfl, by decide⟩

theorem witness_transactions :
    (State.queue State.reset [.tick]).nextTransaction = .tick ∧
    (State.queue State.reset [.tick]).mode ≠ .faulted ∧
    (State.queue State.reset [.ackDraw]).nextTransaction = .ackDraw ∧
    (State.queue State.reset [.init]).nextTransaction = .init := by decide

/-- initialize, then the longest image; and an image one byte longer. -/
theorem witness_LoadProgram (n : Nat) (_ : n = 0xE00 ∨ n = 0xE01) :
    (State.queue State.reset [.init, .loadProgram (List.replicate n 0)]).nextTransaction = .init ∧
    (∃ s1, step (State.queue State.reset [.init, .loadProgram (List.replicate n 0)]) = .next s1 ∧
      s1.nextTransaction = .loadProgram (List.replicate n 0)) ∧
    ((List.replicate n (0 : Byte)).length ≤ 0xE00 ∨ 0xE00 < (List.replicate n (0 : Byte)).length) :=
  ⟨rfl, ⟨_, rfl, rfl⟩, by rw [List.length_replicate]; omega⟩

/-- A wait that a pressed key ends. -/
theorem witness_WaitForKey :
    ∃ t, step (State.queue { State.reset with mode := .awaitingKey } [.runCycle 8 0]) = .next t ∧ t.mode ≠ .awaitingKey :=
  ⟨_, rfl, by decide⟩

theorem witness_CoreNeverStops :
    (∀ bytes, (State.queue State.reset [.tick]).nextTransaction ≠ .loadProgram bytes) ∧
    ∃ r, step (State.queue { State.reset with host := { HostSide.reset with loadable := false } } [.loadProgram []]) = .refused r :=
  ⟨fun _ h => Transaction.noConfusion h, _, rfl⟩

theorem witness_OneTransactionPerStep :
    (State.queue State.reset [.tick, .ackDraw]).host.pending = [.tick, .ackDraw] ∧
    (∃ t, step (State.queue State.reset [.tick, .ackDraw]) = .next t) ∧ State.reset.host.pending = [] := ⟨rfl, ⟨_, rfl⟩, rfl⟩

/-- sp = 16 and sp = 1 for RET, sp = 0 for its fault. -/
theorem witness_RetPops :
    ({ State.reset with sp := 16 } : State).sp.val = (15 : Fin 16).val + 1 ∧
    ({ State.reset with sp := 1 } : State).sp.val = (0 : Fin 16).val + 1 ∧ State.reset.sp.val = 0 := by decide

theorem witness_CallPushes :
    ({ State.reset with sp := 15, pc := 0x0FFE } : State).sp.val = (15 : Fin 16).val ∧ (14 : Fin 16) ≠ 15 ∧
    ({ State.reset with sp := 15, pc := 0x0FFE } : State).pc.toNat ≤ 0x0FFE ∧
    ({ State.reset with sp := 16 } : State).sp.val = 16 := by decide

/-- The aliasing clauses of R146 to R150: x ≠ F, x = F, y ≠ F, y = F. -/
theorem witness_alias :
    (0xE : Reg) ≠ VF ∧ (0xF : Reg) = VF ∧
    (0 = if (5 : Byte).toNat < (5 : Byte).toNat then 1 else 0) ∧ (1 = if (5 : Byte).toNat ≤ (5 : Byte).toNat then 1 else 0) := by
  decide

/-- The last sprite that fits, the first that does not, and n = 0 at the top of I. -/
theorem witness_DrawSprite :
    15 ≤ 15 ∧ ({ State.reset with I := 0x0FF1 } : State).I.toNat + 15 - 1 ≤ 0x0FFF ∧
    (0 < 15 ∧ 0x0FFF < ({ State.reset with I := 0x0FF2 } : State).I.toNat + 15 - 1) ∧
    ((0 : Nat) = 0 ∨ ({ State.reset with I := 0xFFFF } : State).I.toNat + 0 - 1 ≤ 0x0FFF) := by decide

/-- A second state with the first draw's display, memory, I and coordinates: the drawn state itself. -/
theorem witness_DrawTwiceRestores :
    ∃ t, exec (.drw 0 1 1) (spriteState 0xFF 63 31) = .next t ∧ t.v 0 = (spriteState 0xFF 63 31).v 0 ∧
      t.v 1 = (spriteState 0xFF 63 31).v 1 ∧ t.mode ≠ .faulted := ⟨_, rfl, by decide⟩

theorem witness_KeySkips : ((regs [(0, 15)]).v 0).toNat ≤ 15 ∧ 15 < ((regs [(0, 16)]).v 0).toNat := by decide

/-- The last three bytes of memory, and one past. -/
theorem witness_StoreBcd :
    ({ State.reset with I := 0x0FFD } : State).indexAddr + 2 ≤ 0x0FFF ∧
    0x0FFF < ({ State.reset with I := 0x0FFE } : State).indexAddr + 2 := by decide

/-- The last sixteen bytes of memory, and one past, for the dump, the load and their round trip. -/
theorem witness_register_transfer :
    ({ State.reset with I := 0x0FF0 } : State).indexAddr + (0xF : Reg).toNat ≤ 0x0FFF ∧
    0x0FFF < ({ State.reset with I := 0x0FF1 } : State).indexAddr + (0xF : Reg).toNat ∧
    ({ State.reset with I := 0x0FF0 } : State).I.toNat ≤ 0xFF0 ∧ 0xFF0 < ({ State.reset with I := 0x0FF1 } : State).I.toNat ∧
    (0xE : Reg).toNat ≤ (0xE : Reg).toNat ∧ (0xE : Reg).toNat < (0xF : Reg).toNat := by decide

/-- Stores that end at 0x301 and 0x302, and fetches at 0x301 and 0x302 whose first byte alone is stored. -/
theorem witness_FetchSeesStore :
    ({ State.reset with I := 0x300 } : State).indexAddr + 2 ≤ 0x0FFF ∧
    ({ State.reset with I := 0x300 } : State).indexAddr + (1 : Reg).toNat ≤ 0x0FFF ∧
    (∃ t, exec (.ldB 1) { regs [(0, 0x12), (1, 0x0A)] with I := 0x300 } = .next t ∧
      ({ t with pc := 0x302 } : State).pc.toNat ≤ 0x0FFE) ∧
    ∃ t, exec (.ldMemVx 1) { regs [(0, 0x12), (1, 0x0A)] with I := 0x300 } = .next t ∧
      ({ t with pc := 0x301 } : State).pc.toNat ≤ 0x0FFE :=
  ⟨by decide, by decide, ⟨_, rfl, by decide⟩, _, rfl, by decide⟩

theorem witness_StepKeepsInv :
    (State.queue State.reset [.tick]).Inv ∧ ∃ t, step (State.queue State.reset [.tick]) = .next t := ⟨by decide, _, rfl⟩

/-- An instruction that faults, and one that does not; a cycle that faults, and a cycle of a key-wait. -/
theorem witness_NextPc :
    (faultOf .ret State.reset).isSome = true ∧ faultOf (.skp 0) State.reset = none ∧
    (∃ t, exec .ret State.reset = .next t) ∧ (∃ t, exec (.skp 0) State.reset = .next t) ∧
    (∃ t, cycle State.reset = .next t ∧ t.mode = .faulted) ∧
    ∃ t, cycle { State.reset with mode := .awaitingKey } = .next t :=
  ⟨by decide, by decide, ⟨_, rfl⟩, ⟨_, rfl⟩, ⟨_, rfl, by decide⟩, _, rfl⟩

theorem witness_WhoWritesVF :
    ∃ t, exec (.ldImm VF 1) State.reset = .next t ∧ t.v VF ≠ State.reset.v VF := ⟨_, rfl, by decide⟩

theorem witness_InputsUsedOnlyBy :
    (∃ t, exec (.ldImm 0 1) State.reset = .next t) ∧ (∀ x nn, Instr.ldImm 0 1 ≠ .rnd x nn) ∧
    (∀ x, Instr.ldImm 0 1 ≠ .skp x) ∧ (∀ x, Instr.ldImm 0 1 ≠ .sknp x) :=
  ⟨⟨_, rfl⟩, fun _ _ h => Instr.noConfusion h, fun _ h => Instr.noConfusion h, fun _ h => Instr.noConfusion h⟩

/-- A cycle that runs a word, but none of the instructions named. -/
theorem witness_InputsUsedOnlyBy_cycle :
    (∃ t, cycle (fetching 0x200 0x6001) = .next t) ∧ (fetching 0x200 0x6001).fetch = .ok 0x6001 ∧
    decode 0x6001 = .instr (.ldImm 0 1) ∧ (fetching 0x200 0x6001).mode = .running := ⟨⟨_, rfl⟩, rfl, by decide, rfl⟩

theorem witness_cycle_inputs :
    (fetching 0x200 0xF215).nextTransaction = .runCycle 5 7 ∧ (fetching 0x200 0xF215).faultConsistent ∧
    ∃ t, step (fetching 0x200 0xF215) = .next t := ⟨rfl, by decide, _, rfl⟩

end Sys2Proof.Tests
end

/-! SUPPORT. What the operations with more than one outcome can do, said once: the end of a memory instruction (R106), RET and
CALL (R120, R122), the key skips (R190, R191), the key-wait (R101) and load_program (R263, R264). -/

namespace Sys2Proof.Machine

/-- The end of a memory instruction: the access succeeded and the instruction's update was made, or it was refused and the
fault taken in the state it began in (R106, R232). -/
theorem State.commit_map_cases {α : Type} (s : State) (w : Word) (access : Except Word α) (update : α → State) :
    (∃ a, access = .ok a ∧ s.commit w (access.map update) = update a) ∨
    ∃ bad, access = .error bad ∧ s.commit w (access.map update) = s.raise .memoryBound (some w) (some bad) := by
  cases access with
  | ok a => exact .inl ⟨a, rfl, rfl⟩
  | error bad => exact .inr ⟨bad, rfl, rfl⟩

theorem execRet_cases (s : State) :
    (s.sp.val = 0 ∧ execRet s = .next (s.raise .stack (some (encode .ret)) none)) ∨
    ∃ k, ∃ h : k < 16, s.sp.val = k + 1 ∧ execRet s = .next (s.popTo k h) := by
  unfold execRet
  match s.sp with
  | ⟨0, _⟩ => exact .inl ⟨rfl, rfl⟩
  | ⟨k + 1, h⟩ => exact .inr ⟨k, by omega, rfl, rfl⟩

theorem execCall_cases (nnn : Addr) (s : State) :
    (∃ h : s.sp.val < 16, execCall nnn s = .next (s.pushAt s.sp.val h (addrWord nnn))) ∨
    (s.sp.val = 16 ∧ execCall nnn s = .next (s.raise .stack (some (encode (.call nnn))) none)) := by
  unfold execCall
  by_cases h : s.sp.val < 16
  · exact .inl ⟨h, by rw [dif_pos h]⟩
  · exact .inr ⟨by omega, by rw [dif_neg h]⟩

theorem State.keySkip_cases (s : State) (w : Word) (x : Reg) (want : Bool) :
    (15 < (s.v x).toNat ∧ s.keySkip w x want = s.raise .keyIndex (some w) (some (byteWord (s.v x)))) ∨
    ((s.v x).toNat ≤ 15 ∧ s.keySkip w x want = s.skipIf (s.keyDown (s.v x).toNat == want)) := by
  unfold State.keySkip
  by_cases h : 15 < (s.v x).toNat
  · exact .inl ⟨h, if_pos h⟩
  · exact .inr ⟨by omega, if_neg h⟩

theorem State.resolveWait_cases (s : State) :
    (∃ k, firstPressed s.host.keys = some k ∧
      s.resolveWait = { s.setV s.waitReg (BitVec.ofNat 8 k) with mode := .running }) ∨
    (firstPressed s.host.keys = none ∧ s.resolveWait = s) := by
  unfold State.resolveWait
  cases firstPressed s.host.keys with
  | some k => exact .inl ⟨k, rfl, rfl⟩
  | none => exact .inr ⟨rfl, rfl⟩

/-- load_program has a next state only where a load may come next and within the image bound, and it is the copy (R263, R264). -/
theorem loadProgram_eq_next {bytes : List Byte} {s t : State} :
    loadProgram bytes s = .next t ↔
      s.host.loadable = true ∧ bytes.length ≤ 0xE00 ∧ t = { s.settled with mem := s.mem.writeBytes 0x200 bytes } := by
  unfold loadProgram
  by_cases hl : s.host.loadable = true
  · by_cases hb : bytes.length ≤ 0xE00
    · rw [if_pos hl, if_pos hb, Host.Outcome.next.injEq]
      exact ⟨fun h => ⟨hl, hb, h.symm⟩, fun ⟨_, _, h⟩ => h.symm⟩
    · rw [if_pos hl, if_neg hb]
      exact ⟨(nomatch ·), fun ⟨_, h, _⟩ => absurd h hb⟩
  · rw [if_neg hl]
    exact ⟨(nomatch ·), fun ⟨h, _⟩ => absurd h hl⟩

end Sys2Proof.Machine

/-! SUPPORT. FONT along a step (R8, D16): no instruction writes it, so no cycle does, so no transaction does. -/

namespace Sys2Proof.Machine

@[simp] theorem State.setRegsFrom_font (s : State) (i : Nat) (bs : List Byte) : (s.setRegsFrom i bs).font = s.font := by
  rw [State.setRegsFrom_eq]

theorem State.commit_map_font {α : Type} {s : State} {update : α → State} (w : Word) (access : Except Word α)
    (hu : ∀ a, access = .ok a → (update a).font = s.font) : (s.commit w (access.map update)).font = s.font := by
  obtain ⟨a, ha, h⟩ | ⟨bad, -, h⟩ := s.commit_map_cases w access update
  · rw [h, hu a ha]
  · rw [h, State.raise_font]

theorem State.writeRange_font {s t : State} {a : Nat} {bs : List Byte} (h : s.writeRange a bs = .ok t) :
    t.font = s.font := by
  obtain ⟨-, hok⟩ | ⟨-, -, herr⟩ := s.writeRange_cases a bs
  · cases hok.symm.trans h
    rfl
  · cases herr.symm.trans h

@[simp] theorem State.keySkip_font (s : State) (w : Word) (x : Reg) (want : Bool) :
    (s.keySkip w x want).font = s.font := by
  obtain ⟨-, h⟩ | ⟨-, h⟩ := s.keySkip_cases w x want
  · rw [h, State.raise_font]
  · rw [h, State.skipIf_font]

@[simp] theorem State.resolveWait_font (s : State) : s.resolveWait.font = s.font := by
  obtain ⟨k, -, h⟩ | ⟨-, h⟩ := s.resolveWait_cases
  · rw [h, State.setV_font]
  · rw [h]

/-- No instruction writes FONT: those with one outcome update named fields, the others take a fault or do so. -/
theorem exec_font {i : Instr} {s t : State} (h : exec i s = .next t) : t.font = s.font := by
  cases i with
  | ret =>
    obtain ⟨-, hr⟩ | ⟨k, hk, -, hr⟩ := execRet_cases s
    · cases hr.symm.trans h
      exact s.raise_font _ _ _
    · cases hr.symm.trans h
      exact s.popTo_font k hk
  | call nnn =>
    obtain ⟨hsp, hc⟩ | ⟨-, hc⟩ := execCall_cases nnn s
    · cases hc.symm.trans h
      exact s.pushAt_font _ hsp _
    · cases hc.symm.trans h
      exact s.raise_font _ _ _
  | drw x y n =>
    cases h
    exact State.commit_map_font _ _ fun _ _ => rfl
  | ldVxMem x =>
    cases h
    exact State.commit_map_font _ _ fun bytes _ => s.setRegsFrom_font 0 bytes
  | ldB x | ldMemVx x =>
    cases h
    exact State.commit_map_font _ _ fun u hw => u.advance_font.trans (State.writeRange_font hw)
  | skp x | sknp x =>
    cases h
    exact s.keySkip_font _ _ _
  | _ =>
    cases h
    rfl

theorem runInstruction_font {s t : State} (h : runInstruction s = .next t) : t.font = s.font := by
  unfold runInstruction at h
  split at h
  · cases h
    exact s.raise_font _ _ _
  · split at h
    · cases h
      exact s.raise_font _ _ _
    · exact exec_font h

theorem cycle_font {s t : State} (h : cycle s = .next t) : t.font = s.font := by
  unfold cycle at h
  split at h
  · cases h
    rfl
  · cases h
    exact s.resolveWait_font
  · exact runInstruction_font h

theorem perform_font {tr : Transaction} {s t : State} (h : perform tr s = .next t) : t.font = s.font := by
  cases tr with
  | init =>
    cases h
    exact s.initCore_font
  | loadProgram bytes =>
    obtain ⟨-, -, rfl⟩ := loadProgram_eq_next.1 h
    exact s.settled_font
  | runCycle keys rnd => exact (cycle_font h).trans (s.beginCycle_font keys rnd)
  | tick =>
    cases h
    exact s.settled.tick_font.trans s.settled_font
  | ackDraw =>
    cases h
    exact s.settled.ackDraw_font.trans s.settled_font

/-- Settles O56: a step performs its transaction on the state with that transaction taken, and neither writes FONT. -/
theorem fontIsFixed : Obligations.FontIsFixed := by
  intro s t h
  exact (perform_font h).trans s.takeTransaction_font

end Sys2Proof.Machine

/-! SUPPORT. exec as one equation: the fault that the table of R234 gives, or else the state the instruction completes in
(R106, R237). -/

namespace Sys2Proof.Machine

/-- The state an instruction leaves when it raises no fault. The instructions that can fault are written out without their
check, the stack index clamped so that it is one in every state; every other one has a single outcome, which exec gives.
`exec_eq` ties it to exec. -/
def State.completed (s : State) (i : Instr) : State :=
  match i with
  | .ret => s.popTo (s.sp.val - 1) (by omega)
  | .call nnn => s.pushAt (min s.sp.val 15) (by omega) (addrWord nnn)
  | .drw x y n => (s.drawn (s.drawSprite x y (s.mem.readBytes s.indexAddr n))).advance
  | .skp x => s.skipIf (s.keyDown (s.v x).toNat == true)
  | .sknp x => s.skipIf (s.keyDown (s.v x).toNat == false)
  | .ldB x => { s with mem := s.mem.writeBytes s.indexAddr (decimalDigits (s.v x)) }.advance
  | .ldMemVx x => { s with mem := s.mem.writeBytes s.indexAddr (s.regsUpTo x) }.advance
  | .ldVxMem x => { s with V := (s.setRegsFrom 0 (s.mem.readBytes s.indexAddr (x.toNat + 1))).V }.advance
  | i => match exec i s with
    | .next t => t
    | _ => s

/-- A fault where there is one, taken with the word of the instruction (R237), else the completed state. -/
def State.faultOrElse (s : State) (i : Instr) (done : State) : Option (FaultKind × Option Word) → State
  | none => done
  | some (kind, addr) => s.raise kind (some (encode i)) addr

/-- The bound check of an access at I, as the table of R234 words it. -/
theorem rangeFault_indexAddr (s : State) (len : Nat) :
    rangeFault s.indexAddr len =
      if 0 < len ∧ 0xFFF < s.I.toNat + len - 1 then some (firstBeyond s.I) else none := by
  unfold rangeFault State.indexAddr firstBeyond
  by_cases h : len = 0 ∨ s.I.toNat + len ≤ 0x1000
  · rw [if_pos h]
    exact (if_neg (by omega)).symm
  · rw [if_neg h, BitVec.ofNat_toNat, BitVec.setWidth_eq]
    exact (if_pos (by omega)).symm

/-- The table's entry of a memory instruction that accesses `len` bytes at I. -/
def State.accessFault (s : State) (len : Nat) : Option (FaultKind × Option Word) :=
  (rangeFault s.indexAddr len).map fun bad => (.memoryBound, some bad)

theorem State.accessFault_eq (s : State) (len : Nat) :
    s.accessFault len =
      if 0 < len ∧ 0xFFF < s.I.toNat + len - 1 then some (.memoryBound, some (firstBeyond s.I)) else none := by
  unfold State.accessFault
  rw [rangeFault_indexAddr]
  split <;> rfl

theorem State.accessFault_succ (s : State) (k : Nat) :
    s.accessFault (k + 1) =
      if 0xFFF < s.I.toNat + k then some (.memoryBound, some (firstBeyond s.I)) else none := by
  rw [s.accessFault_eq]
  exact ite_congr (propext (by omega)) (fun _ => rfl) fun _ => rfl

/-- A memory instruction that reads: its fault, or its update with the bytes read (R106). -/
theorem State.commit_readRange (s : State) (i : Instr) (len : Nat) (update : List Byte → State) :
    s.commit (encode i) ((s.readRange s.indexAddr len).map update) =
      s.faultOrElse i (update (s.mem.readBytes s.indexAddr len)) (s.accessFault len) := by
  unfold State.readRange State.accessFault
  cases rangeFault s.indexAddr len <;> rfl

/-- A memory instruction that writes: its fault, or its bytes written (R106). -/
theorem State.commit_writeRange (s : State) (i : Instr) (bs : List Byte) :
    s.commit (encode i) ((s.writeRange s.indexAddr bs).map State.advance) =
      s.faultOrElse i { s with mem := s.mem.writeBytes s.indexAddr bs }.advance (s.accessFault bs.length) := by
  unfold State.writeRange State.accessFault
  cases rangeFault s.indexAddr bs.length <;> rfl

/-- A key skip: the fault of a key index above 15 (R233), or the skip. -/
theorem State.keySkip_eq (s : State) (i : Instr) (x : Reg) (want : Bool) :
    s.keySkip (encode i) x want =
      s.faultOrElse i (s.skipIf (s.keyDown (s.v x).toNat == want))
        (if 15 < (s.v x).toNat then some (.keyIndex, some (byteWord (s.v x))) else none) := by
  unfold State.keySkip
  split <;> rfl

/-- exec never stops: it takes the fault of R234's table, or completes. -/
theorem exec_eq (i : Instr) (s : State) : exec i s = .next (s.faultOrElse i (s.completed i) (faultOf i s)) := by
  cases i with
  | ret =>
    obtain ⟨h0, h⟩ | ⟨k, hk, hsp, h⟩ := execRet_cases s
    · exact h.trans (by rw [faultOf, if_pos h0]; rfl)
    · refine h.trans ?_
      rw [faultOf, if_neg (by omega)]
      simp only [State.faultOrElse, State.completed, hsp, Nat.add_sub_cancel]
  | call nnn =>
    obtain ⟨hk, h⟩ | ⟨h16, h⟩ := execCall_cases nnn s
    · refine h.trans ?_
      rw [faultOf, if_neg (by omega)]
      simp only [State.faultOrElse, State.completed, Nat.min_eq_left (Nat.le_of_lt_succ hk)]
    · exact h.trans (by rw [faultOf, if_pos h16]; rfl)
  | drw x y n =>
    rw [faultOf, ← s.accessFault_eq]
    exact congrArg Host.Outcome.next (s.commit_readRange _ n _)
  | ldB x =>
    rw [faultOf, ← s.accessFault_succ]
    exact congrArg Host.Outcome.next (s.commit_writeRange _ _)
  | ldMemVx x =>
    rw [faultOf, ← s.accessFault_succ, ← s.length_regsUpTo]
    exact congrArg Host.Outcome.next (s.commit_writeRange _ _)
  | ldVxMem x =>
    rw [faultOf, ← s.accessFault_succ, State.completed, ← State.setRegsFrom_eq]
    exact congrArg Host.Outcome.next (s.commit_readRange _ _ _)
  | skp x | sknp x => exact congrArg Host.Outcome.next (s.keySkip_eq _ x _)
  | _ => rfl

/-- Everything exec can answer: a fault of R234's table, or the completed state. -/
theorem exec_cases {i : Instr} {s t : State} (h : exec i s = .next t) :
    (∃ kind addr, faultOf i s = some (kind, addr) ∧ t = s.raise kind (some (encode i)) addr) ∨
    (faultOf i s = none ∧ t = s.completed i) := by
  rw [exec_eq, Host.Outcome.next.injEq] at h
  subst h
  match faultOf i s with
  | none => exact .inr ⟨rfl, rfl⟩
  | some (kind, addr) => exact .inl ⟨kind, addr, rfl, rfl⟩

end Sys2Proof.Machine

/-! SUPPORT. The completed state of an instruction, field by field: which instructions change the field (R20, R22, R27,
R28, R53, R178, R242), and to what where a later proof needs it. -/

namespace Sys2Proof.Machine

variable (s : State) (i : Instr)

theorem State.completed_I :
    (s.completed i).I = s.I ∨ (∃ nnn, i = .ldI nnn) ∨ (∃ x, i = .addI x) ∨ ∃ x, i = .ldF x := by
  cases i with
  | ldI nnn => exact .inr (.inl ⟨nnn, rfl⟩)
  | addI x => exact .inr (.inr (.inl ⟨x, rfl⟩))
  | ldF x => exact .inr (.inr (.inr ⟨x, rfl⟩))
  | _ => exact .inl rfl

theorem State.completed_display : s.keepsDisplay (s.completed i) ∨ i = .cls ∨ ∃ x y n, i = .drw x y n := by
  cases i with
  | cls => exact .inr (.inl rfl)
  | drw x y n => exact .inr (.inr ⟨x, y, n, rfl⟩)
  | _ => exact .inl ⟨rfl, rfl⟩

theorem State.completed_sp : (s.completed i).sp = s.sp ∨ i = .ret ∨ ∃ nnn, i = .call nnn := by
  cases i with
  | ret => exact .inr (.inl rfl)
  | call nnn => exact .inr (.inr ⟨nnn, rfl⟩)
  | _ => exact .inl rfl

theorem State.completed_stack : (s.completed i).stack = s.stack ∨ ∃ nnn, i = .call nnn := by
  cases i with
  | call nnn => exact .inr ⟨nnn, rfl⟩
  | _ => exact .inl rfl

theorem State.completed_DT : (s.completed i).DT = s.DT ∨ ∃ x, i = .ldDTVx x := by
  cases i with
  | ldDTVx x => exact .inr ⟨x, rfl⟩
  | _ => exact .inl rfl

theorem State.completed_ST : (s.completed i).ST = s.ST ∨ ∃ x, i = .ldSTVx x := by
  cases i with
  | ldSTVx x => exact .inr ⟨x, rfl⟩
  | _ => exact .inl rfl

theorem State.completed_mem : (s.completed i).mem = s.mem ∨ (∃ x, i = .ldB x) ∨ ∃ x, i = .ldMemVx x := by
  cases i with
  | ldB x => exact .inr (.inl ⟨x, rfl⟩)
  | ldMemVx x => exact .inr (.inr ⟨x, rfl⟩)
  | _ => exact .inl rfl

theorem State.completed_waitReg : (s.completed i).waitReg = s.waitReg ∨ ∃ x, i = .ldVxK x := by
  cases i with
  | ldVxK x => exact .inr ⟨x, rfl⟩
  | _ => exact .inl rfl

theorem State.completed_mode :
    (s.completed i).mode = s.mode ∨ (∃ x, i = .ldVxK x) ∧ (s.completed i).mode = .awaitingKey := by
  cases i with
  | ldVxK x => exact .inr ⟨⟨x, rfl⟩, rfl⟩
  | _ => exact .inl rfl

@[simp] theorem State.completed_fault : (s.completed i).fault = s.fault := by cases i <;> rfl

@[simp] theorem State.completed_host : (s.completed i).host = s.host := by cases i <;> rfl

theorem State.completed_mode_ne_faulted (h : s.mode ≠ .faulted) : (s.completed i).mode ≠ .faulted := by
  obtain hm | ⟨-, hm⟩ := s.completed_mode i
  · rwa [hm]
  · rw [hm]
    decide

/-! ### Registers -/

/-- A register write changes the register it names alone. -/
theorem State.eq_of_setV_v_ne {s : State} {x y : Reg} {b : Byte} (h : (s.setV x b).v y ≠ s.v y) : y = x :=
  Decidable.byContradiction fun hne => h (s.setV_v_ne b hne)

/-- LD Vx, [I] changes VF only when x is F: it writes V0..Vx (R215). -/
theorem State.completed_ldVxMem_VF {s : State} {x : Reg} (h : (s.completed (.ldVxMem x)).v VF ≠ s.v VF) : x = VF := by
  have hv : (s.completed (.ldVxMem x)).v VF =
      (s.setRegsFrom 0 (s.mem.readBytes s.indexAddr (x.toNat + 1))).v VF := rfl
  rw [hv, State.setRegsFrom_v _ _ _ (by rw [Memory.length_readBytes]; omega), Memory.length_readBytes, VF_toNat] at h
  have hx : 15 < 0 + (x.toNat + 1) := Decidable.byContradiction fun hlt => h (if_neg fun hc => hlt hc.2)
  exact BitVec.eq_of_toNat_eq (by rw [VF_toNat]; omega)

/-! ### The program counter (R24) -/

theorem toNat_addrWord (nnn : Addr) : (addrWord nnn).toNat = nnn.toNat :=
  BitVec.toNat_setWidth_of_le (by decide)

theorem toNat_jumpV0_target (nnn : Addr) (b : Byte) : (addrWord nnn + byteWord b).toNat = nnn.toNat + b.toNat := by
  rw [BitVec.toNat_add, toNat_addrWord, byteWord, BitVec.toNat_setWidth_of_le (by decide)]
  omega

/-- The pc after a skip on `c`, with the condition as the spec words it. -/
theorem State.skipIf_pc_of_iff {c : Bool} {P : Prop} [Decidable P] (h : c = true ↔ P) :
    (s.skipIf c).pc = if P then s.pc + 4 else s.pc + 2 := by
  rw [State.skipIf_pc]
  by_cases hP : P
  · rw [if_pos hP, if_pos (h.2 hP)]
  · rw [if_neg hP, if_neg (mt h.1 hP)]

end Sys2Proof.Machine

/-! SUPPORT. Everything a cycle can do (R100 to R107), said once. -/

namespace Sys2Proof.Machine

/-- A word is fetched only where both its bytes are in memory (R103). -/
theorem State.pc_le_of_fetch {s : State} {w : Word} (h : s.fetch = .ok w) : s.pc.toNat ≤ 0xFFE := by
  obtain ⟨hle, -⟩ | ⟨-, -, herr⟩ := s.readRange_cases s.pc.toNat 2
  · omega
  · rw [State.fetch, herr] at h
    cases h

/-- A running cycle takes a fault, of the fetch, the decoder or the instruction, or completes the instruction it fetched. -/
theorem runInstruction_cases {s t : State} (h : runInstruction s = .next t) :
    (∃ kind word addr, t = s.raise kind word addr) ∨
    ∃ w i, s.fetch = .ok w ∧ decode w = .instr i ∧ faultOf i s = none ∧ t = s.completed i := by
  unfold runInstruction at h
  split at h
  · cases h
    exact .inl ⟨_, _, _, rfl⟩
  next w hw =>
    split at h
    · cases h
      exact .inl ⟨_, _, _, rfl⟩
    next i hi =>
      obtain ⟨kind, addr, -, ht⟩ | ⟨hf, ht⟩ := exec_cases h
      · exact .inl ⟨kind, _, addr, ht⟩
      · exact .inr ⟨w, i, hw, hi, hf, ht⟩

theorem cycle_cases {s t : State} (h : cycle s = .next t) :
    (s.mode = .faulted ∧ t = s) ∨ (s.mode = .awaitingKey ∧ t = s.resolveWait) ∨
    (s.mode = .running ∧ runInstruction s = .next t) := by
  unfold cycle at h
  split at h
  next hm =>
    cases h
    exact .inl ⟨hm, rfl⟩
  next hm =>
    cases h
    exact .inr (.inl ⟨hm, rfl⟩)
  next hm => exact .inr (.inr ⟨hm, h⟩)

@[simp] theorem State.resolveWait_pc (s : State) : s.resolveWait.pc = s.pc := by
  obtain ⟨k, -, h⟩ | ⟨-, h⟩ := s.resolveWait_cases
  · rw [h, State.setV_pc]
  · rw [h]

end Sys2Proof.Machine

/-! SUPPORT. The invariant along a step (R40): each clause through an instruction, then a cycle, then a transaction. -/

namespace Sys2Proof.Machine

/-! ### Through an instruction, from a pc a word was fetched at -/

/-- An instruction that raises no fault writes memory below 0x1000 alone, so the canonical form stays (R53, R55). -/
theorem State.completed_wf {s : State} {i : Instr} (hf : faultOf i s = none) (h : Memory.wf s.mem) :
    Memory.wf (s.completed i).mem := by
  cases i with
  | ldB x =>
    have hI : ¬ 0xFFF < s.I.toNat + 2 := fun hc => nomatch (if_pos hc).symm.trans hf
    exact Memory.wf_writeBytes (by simp only [State.indexAddr, decimalDigits, List.length_cons, List.length_nil]; omega) h
  | ldMemVx x =>
    have hI : ¬ 0xFFF < s.I.toNat + x.toNat := fun hc => nomatch (if_pos hc).symm.trans hf
    exact Memory.wf_writeBytes (by rw [State.length_regsUpTo, State.indexAddr]; omega) h
  | _ => exact h

theorem State.advance_pc_le {s : State} (h : s.pc.toNat ≤ 0xFFE) : (s.pc + 2).toNat ≤ 0x1000 := by
  bv_omega

theorem State.skipIf_pc_le {s : State} (c : Bool) (h : s.pc.toNat ≤ 0xFFE) : (s.skipIf c).pc.toNat ≤ 0x1002 := by
  rw [State.skipIf_pc]
  split <;> bv_omega

/-- The highest pc is the highest target of JP V0, 0xFFF + 0xFF (R23, R127). -/
theorem State.completed_pc_le {s : State} (i : Instr) (hpc : s.pc.toNat ≤ 0xFFE) (hs : s.stackBounded) :
    (s.completed i).pc.toNat ≤ 0x10FE := by
  cases i with
  | ret => exact Nat.le_trans (hs ⟨s.sp.val - 1, by omega⟩) (by decide)
  | jp nnn | call nnn =>
    have : (addrWord nnn).toNat ≤ 0x10FE := by rw [toNat_addrWord]; omega
    exact this
  | jpV0 nnn =>
    have : (addrWord nnn + byteWord (s.v 0)).toNat ≤ 0x10FE := by rw [toNat_jumpV0_target]; omega
    exact this
  | seImm | sneImm | seReg | sneReg | skp | sknp => exact Nat.le_trans (State.skipIf_pc_le _ hpc) (by decide)
  | _ => exact Nat.le_trans (State.advance_pc_le hpc) (by decide)

/-- CALL pushes p + 2, at most 0x1000 (R23, R122). -/
theorem State.completed_stackBounded {s : State} (i : Instr) (hpc : s.pc.toNat ≤ 0xFFE) (hs : s.stackBounded) :
    (s.completed i).stackBounded := by
  obtain h | ⟨nnn, rfl⟩ := s.completed_stack i
  · intro k
    simpa only [h] using hs k
  · intro k
    have hset : (s.completed (.call nnn)).stack[k.val] =
        if min s.sp.val 15 = k.val then s.pc + 2 else s.stack[k.val] := Vector.getElem_set (by omega) _
    rw [hset]
    split
    · exact State.advance_pc_le hpc
    · exact hs k

theorem State.completed_faultConsistent {s : State} (i : Instr) (hm : s.mode ≠ .faulted) (h : s.faultConsistent) :
    (s.completed i).faultConsistent := by
  have hnone : ¬ s.fault.isSome = true := fun hs => hm (h.1 hs)
  exact iff_of_false (by rwa [s.completed_fault i]) (s.completed_mode_ne_faulted i hm)

theorem State.raise_inv {s : State} (kind : FaultKind) (word addr : Option Word) (h : s.Inv) :
    (s.raise kind word addr).Inv := by
  obtain ⟨hwf, hpc, hstack, -⟩ := h
  exact ⟨hwf, hpc, hstack, iff_of_true rfl rfl⟩

/-! ### Through a cycle -/

theorem runInstruction_inv {s t : State} (hm : s.mode ≠ .faulted) (h : s.Inv) (hr : runInstruction s = .next t) :
    t.Inv := by
  obtain ⟨kind, word, addr, rfl⟩ | ⟨w, i, hw, -, hf, rfl⟩ := runInstruction_cases hr
  · exact State.raise_inv kind word addr h
  · obtain ⟨hwf, -, hstack, hfault⟩ := h
    have hpc := State.pc_le_of_fetch hw
    exact ⟨State.completed_wf hf hwf, State.completed_pc_le i hpc hstack, State.completed_stackBounded i hpc hstack,
      State.completed_faultConsistent i hm hfault⟩

/-- The end of a key-wait leaves no fault record, as there was none in AWAITING_KEY (R101). -/
theorem State.resolveWait_inv {s : State} (hm : s.mode = .awaitingKey) (h : s.Inv) : s.resolveWait.Inv := by
  obtain ⟨k, -, hr⟩ | ⟨-, hr⟩ := s.resolveWait_cases
  · obtain ⟨hwf, hpc, hstack, hfault⟩ := h
    have hnone : ¬ s.fault.isSome = true := fun hs => nomatch hm.symm.trans (hfault.1 hs)
    rw [hr]
    exact ⟨hwf, hpc, hstack, iff_of_false hnone (nomatch ·)⟩
  · rwa [hr]

theorem cycle_inv {s t : State} (h : s.Inv) (hc : cycle s = .next t) : t.Inv := by
  obtain ⟨-, rfl⟩ | ⟨hm, rfl⟩ | ⟨hm, hr⟩ := cycle_cases hc
  · exact h
  · exact State.resolveWait_inv hm h
  · exact runInstruction_inv (by rw [hm]; decide) h hr

/-! ### Through a transaction -/

/-- The invariant speaks of five fields alone. -/
theorem State.Inv.congr {s t : State} (h : s.Inv) (hmem : t.mem = s.mem) (hpc : t.pc = s.pc) (hstack : t.stack = s.stack)
    (hmode : t.mode = s.mode) (hfault : t.fault = s.fault) : t.Inv := by
  unfold State.Inv State.stackBounded State.faultConsistent
  rwa [hmem, hpc, hstack, hmode, hfault]

theorem State.resetWith_inv (font : Font) : (State.resetWith font).Inv := by
  have hpc : State.reset.pc.toNat ≤ 0x10FE := by decide
  have hstack : State.reset.stackBounded := by decide
  have hfault : State.reset.faultConsistent := by decide
  exact ⟨State.resetWith_wf font, hpc, hstack, hfault⟩

theorem perform_inv {tr : Transaction} {s t : State} (h : s.Inv) (hp : perform tr s = .next t) : t.Inv := by
  cases tr with
  | init =>
    cases hp
    exact (State.resetWith_inv s.font).congr rfl rfl rfl rfl rfl
  | loadProgram bytes =>
    obtain ⟨-, hlen, rfl⟩ := loadProgram_eq_next.1 hp
    obtain ⟨hwf, hrest⟩ := h
    exact ⟨Memory.wf_writeBytes (by omega) hwf, hrest⟩
  | runCycle keys rnd => exact cycle_inv (s := s.beginCycle keys rnd) (h.congr rfl rfl rfl rfl rfl) hp
  | tick =>
    cases hp
    exact h.congr s.settled.tick_mem s.settled.tick_pc s.settled.tick_stack s.settled.tick_mode s.settled.tick_fault
  | ackDraw =>
    cases hp
    exact h.congr rfl rfl rfl rfl rfl

/-- Settles O47: a step performs its transaction on the state with that transaction taken, and both keep the invariant. -/
theorem stepKeepsInv : Obligations.StepKeepsInv := by
  intro s t h hstep
  exact perform_inv (h.congr s.takeTransaction_mem s.takeTransaction_pc s.takeTransaction_stack s.takeTransaction_mode
    s.takeTransaction_fault) hstep

/-- Settles O48: State.reset is the reset state of the default FONT, and every reset state has the invariant. -/
theorem resetInv : Obligations.ResetInv := by
  unfold Obligations.ResetInv
  rw [← State.resetWith_default]
  exact State.resetWith_inv Config.font

end Sys2Proof.Machine

/-! SUPPORT. Where an instruction and a cycle leave pc (R24), and which instruction writes what (R20 to R28, R41). -/

namespace Sys2Proof.Machine

/-- A cycle that waits for a key, or that ends in FAULTED, leaves pc where it was (R101, R107, R237). -/
theorem cycle_pc_of_wait_or_fault {s t : State} (hc : cycle s = .next t)
    (h : s.mode = .awaitingKey ∨ t.mode = .faulted) : t.pc = s.pc := by
  obtain ⟨-, rfl⟩ | ⟨-, rfl⟩ | ⟨hm, hr⟩ := cycle_cases hc
  · rfl
  · exact s.resolveWait_pc
  · obtain ⟨kind, word, addr, rfl⟩ | ⟨w, i, -, -, -, rfl⟩ := runInstruction_cases hr
    · rfl
    · have hrun : (s.completed i).mode ≠ .faulted := s.completed_mode_ne_faulted i (by rw [hm]; decide)
      rw [hm] at h
      exact absurd h (by simp [hrun])

/-- Settles O49: a fault is a raise, which keeps pc; of the completed states, the skips, jumps, CALL and RET have a pc of their
own, and every other one advances. -/
theorem nextPc : Obligations.NextPc := by
  refine ⟨fun s t hc h => cycle_pc_of_wait_or_fault hc h, fun i s t h => ?_⟩
  obtain ⟨kind, addr, hf, rfl⟩ | ⟨hf, rfl⟩ := exec_cases h
  · exact ⟨fun _ => rfl, fun hnone => nomatch hf.symm.trans hnone⟩
  refine ⟨fun hsome => absurd hsome (by simp [hf]), fun _ => ?_⟩
  cases i with
  | seImm | seReg | skp | sknp => exact s.skipIf_pc_of_iff beq_iff_eq
  | sneImm | sneReg => exact s.skipIf_pc_of_iff bne_iff_ne
  | jp nnn | call nnn => exact toNat_addrWord nnn
  | jpV0 nnn => exact toNat_jumpV0_target nnn (s.v 0)
  | ret => exact Vector.getElem?_eq_getElem _
  | _ => rfl

/-- Settles O50: a fault writes the mode and the record alone, and what a completed instruction writes is said field by
field. -/
theorem whoWritesWhat : Obligations.WhoWritesWhat := by
  intro i s t h
  obtain ⟨kind, addr, -, rfl⟩ | ⟨-, rfl⟩ := exec_cases h
  · exact ⟨.inl rfl, .inl ⟨rfl, rfl⟩, .inl rfl, .inl rfl, .inl rfl, .inl rfl, .inl fun _ => rfl, .inl rfl, rfl, rfl⟩
  · exact ⟨s.completed_I i, s.completed_display i, s.completed_sp i, s.completed_stack i, s.completed_DT i,
      s.completed_ST i, (s.completed_mem i).imp_left fun hm a => by rw [hm], s.completed_waitReg i, s.completed_host i,
      exec_font h⟩

/-- Settles O51: an instruction that sets no flag writes VF only as its destination, x. -/
theorem whoWritesVF : Obligations.WhoWritesVF := by
  intro i s t h hne
  obtain ⟨kind, addr, -, rfl⟩ | ⟨-, rfl⟩ := exec_cases h
  · exact absurd rfl hne
  cases i with
  | addReg | subReg | shr | subnReg | shl | drw | addI => simp
  | ldImm x | addImm x | ldReg x | orReg x | andReg x | xorReg x | rnd x | ldVxDT x =>
    obtain rfl : VF = x := State.eq_of_setV_v_ne (s := s) hne
    simp
  | ldVxMem x =>
    obtain rfl := State.completed_ldVxMem_VF hne
    simp
  | _ => exact absurd rfl hne

end Sys2Proof.Machine

/-! SUPPORT. A cycle's inputs overwrite the latches of the last one (R35, R36, R109; log 4). -/

namespace Sys2Proof.Machine

theorem State.takeTransaction_beginCycle_latches (s : State) (keys oldKeys : Keys) (rnd oldRnd : Byte) :
    State.beginCycle (State.takeTransaction { s with host := { s.host with keys := oldKeys, rnd := oldRnd } }) keys rnd =
      s.takeTransaction.beginCycle keys rnd := by
  unfold State.takeTransaction
  cases s.host.pending <;> rfl

/-- Settles O53: the next transaction is found without the latches, and its cycle begins by overwriting them. -/
theorem noStaleInputs : Obligations.NoStaleInputs := by
  intro s keys oldKeys rnd oldRnd h
  have hnext : State.nextTransaction { s with host := { s.host with keys := oldKeys, rnd := oldRnd } } =
      .runCycle keys rnd := h
  unfold step
  rw [hnext, h]
  exact congrArg cycle (s.takeTransaction_beginCycle_latches keys oldKeys rnd oldRnd)

end Sys2Proof.Machine

/-! SUPPORT. The reset values (R39) are those of every reset state, and the init transaction leaves one (R260). -/

namespace Sys2Proof.Machine

theorem State.resetWith_hasResetValues (font : Font) : (State.resetWith font).hasResetValues := by
  have hv : ∀ x, State.reset.v x = 0 := by decide
  have hstack : ∀ k : Fin 16, State.reset.stack[k.val] = 0 := by decide
  have hdisp : ∀ r c, Display.pixel State.reset.disp r c = false := by
    intro r c
    simp [Display.pixel, State.reset]
  refine ⟨fun a h => ?_, fun a h _ => ?_, hv, rfl, rfl, rfl, hstack, rfl, rfl, hdisp, rfl, rfl, rfl, rfl⟩
  · rw [State.resetWith_read, dif_pos h]
    rfl
  · rw [State.resetWith_read, dif_neg (by omega)]

/-- The init transaction leaves the reset state of the machine's own FONT, the host's side apart. -/
theorem State.initCore_hasResetValues (s : State) : s.initCore.hasResetValues :=
  State.resetWith_hasResetValues s.font

/-- Settles O16: a step that performs init leaves initCore, which has the reset values and keeps FONT. -/
theorem initializeResets : Obligations.InitializeResets := by
  intro s h
  refine ⟨s.takeTransaction.initCore, ?_, s.takeTransaction.initCore_hasResetValues, s.takeTransaction_font⟩
  rw [step, h]
  rfl

/-- Settles O17: the values hold for every FONT, and State.reset is the reset state of the default one. -/
theorem resetValues : Obligations.ResetValues := by
  refine ⟨?_, fun font => ⟨State.resetWith_hasResetValues font, rfl⟩⟩
  rw [← State.resetWith_default]
  exact State.resetWith_hasResetValues Config.font

end Sys2Proof.Machine

/-! SUPPORT. The range accesses on each side of the bound check (R55), and a byte of memory after a range write (R59). -/

namespace Sys2Proof.Machine

theorem rangeFault_toNat_of_beyond {a : Word} {len : Nat} (h : 0 < len ∧ 0xFFF < a.toNat + len - 1) :
    rangeFault a.toNat len = some (firstBeyond a) := by
  refine rangeFault_eq_some.2 ⟨h.1, by omega, ?_⟩
  rw [BitVec.ofNat_toNat, BitVec.setWidth_eq]
  rfl

theorem State.readRange_of_within (s : State) {a len : Nat} (h : len = 0 ∨ a + len - 1 ≤ 0xFFF) :
    s.readRange a len = .ok (s.mem.readBytes a len) := by
  rw [State.readRange, rangeFault_eq_none.2 (by omega)]

theorem State.readRange_of_beyond (s : State) {a : Word} {len : Nat} (h : 0 < len ∧ 0xFFF < a.toNat + len - 1) :
    s.readRange a.toNat len = .error (firstBeyond a) := by
  rw [State.readRange, rangeFault_toNat_of_beyond h]

theorem State.writeRange_of_within (s : State) {a : Nat} {bs : List Byte}
    (h : bs.length = 0 ∨ a + bs.length - 1 ≤ 0xFFF) :
    s.writeRange a bs = .ok { s with mem := s.mem.writeBytes a bs } := by
  rw [State.writeRange, rangeFault_eq_none.2 (by omega)]

theorem State.writeRange_of_beyond (s : State) {a : Word} {bs : List Byte}
    (h : 0 < bs.length ∧ 0xFFF < a.toNat + bs.length - 1) : s.writeRange a.toNat bs = .error (firstBeyond a) := by
  rw [State.writeRange, rangeFault_toNat_of_beyond h]

theorem Memory.getElem?_readBytes (m : Memory) (a : Nat) {len k : Nat} (h : k < len) :
    (m.readBytes a len)[k]? = some (m.read (a + k)) := by
  rw [List.getElem?_eq_getElem (by rwa [Memory.length_readBytes]), Memory.getElem_readBytes]

theorem Memory.read_writeBytes_of_getElem? (m : Memory) (a : Nat) {bs : List Byte} {k : Nat} {b : Byte}
    (h : bs[k]? = some b) : (m.writeBytes a bs).read (a + k) = b := by
  have hk : k < bs.length := (List.getElem?_eq_some_iff.1 h).1
  rw [Memory.read_writeBytes, if_pos (by omega), Nat.add_sub_cancel_left, List.getD_eq_getElem?_getD, h,
    Option.getD_some]

theorem Memory.read_writeBytes_of_outside (m : Memory) {a : Nat} {bs : List Byte} {c : Nat}
    (h : c < a ∨ a + bs.length ≤ c) : (m.writeBytes a bs).read c = m.read c := by
  rw [Memory.read_writeBytes, if_neg (by omega)]

/-- Settles O9: the range decides the bound check, and an accepted access reads or writes each byte at its own address. -/
theorem boundsBeforeAccess : Obligations.BoundsBeforeAccess := by
  intro s a len bs
  refine ⟨s.readRange_of_beyond, fun h => ?_, s.writeRange_of_beyond, fun h => ?_⟩
  · exact ⟨_, s.readRange_of_within h, s.mem.length_readBytes _ _, fun k hk => s.mem.getElem?_readBytes _ hk⟩
  · exact ⟨_, s.writeRange_of_within h, rfl, fun k b hb => s.mem.read_writeBytes_of_getElem? _ hb,
      fun c hc => s.mem.read_writeBytes_of_outside hc⟩

end Sys2Proof.Machine

/-! SUPPORT. A fetch reads memory as the stores before it left it, with nothing between them (R54, R63, R266). -/

namespace Sys2Proof.Machine

theorem toNat_wordOfBytes (hi lo : Byte) : (wordOfBytes hi lo).toNat = hi.toNat * 256 + lo.toNat := by
  rw [wordOfBytes, BitVec.toNat_append, ← Nat.shiftLeft_add_eq_or_of_lt lo.isLt, Nat.shiftLeft_eq]

theorem State.fetch_of_le {s : State} (h : s.pc.toNat ≤ 0x0FFE) :
    s.fetch = .ok (wordOfBytes (Memory.read s.mem s.pc.toNat) (Memory.read s.mem (s.pc.toNat + 1))) := by
  rw [State.fetch, s.readRange_of_within (by omega)]
  rfl

theorem exec_eq_completed {i : Instr} {s : State} (h : faultOf i s = none) : exec i s = .next (s.completed i) := by
  rw [exec_eq, h]
  rfl

/-- The list `bs` holds the bytes that `stored` gives as numbers, `len` of them. -/
def StoredBytes (bs : List Byte) (len : Nat) (stored : Nat → Nat) : Prop :=
  bs.length = len ∧ ∀ k (h : k < bs.length), bs[k].toNat = stored k

theorem storedBytes_decimalDigits (s : State) (x : Reg) : StoredBytes (decimalDigits (s.v x)) 3 (s.bcdByte x) := by
  refine ⟨rfl, fun k hk => ?_⟩
  match k, hk with
  | 0, _ => exact BitVec.toNat_udiv
  | 1, _ => exact BitVec.toNat_umod.trans (congrArg (· % 10) BitVec.toNat_udiv)
  | 2, _ => exact BitVec.toNat_umod

theorem storedBytes_regsUpTo (s : State) (x : Reg) :
    StoredBytes (s.regsUpTo x) (x.toNat + 1) fun k => (s.v (BitVec.ofNat 4 k)).toNat :=
  ⟨s.length_regsUpTo x, fun k hk => congrArg BitVec.toNat (s.getElem_regsUpTo x k hk)⟩

theorem State.toNat_read_writeBytes (s : State) (base : Nat) {bs : List Byte} {len : Nat} {stored : Nat → Nat}
    (hbs : StoredBytes bs len stored) (a : Nat) :
    ((s.mem.writeBytes base bs).read a).toNat = s.byteAfterStore base len stored a := by
  obtain ⟨rfl, hstored⟩ := hbs
  rw [Memory.read_writeBytes, State.byteAfterStore]
  by_cases h : base ≤ a ∧ a < base + bs.length
  · have hk : a - base < bs.length := by omega
    rw [if_pos h, if_pos h, List.getD_eq_getElem?_getD, List.getElem?_eq_getElem hk, Option.getD_some, hstored _ hk]
  · rw [if_neg h, if_neg h]

/-- A fetch takes each of its two bytes from the store or from the memory before it, whichever its address falls on. -/
theorem State.fetch_after_writeBytes (s : State) {base : Nat} {bs : List Byte} {len : Nat} {stored : Nat → Nat}
    (hbs : StoredBytes bs len stored) {s2 : State} (hmem : s2.mem = s.mem.writeBytes base bs)
    (hpc : s2.pc.toNat ≤ 0x0FFE) :
    ∃ w, s2.fetch = .ok w ∧ w.toNat = s.wordAfterStore base len stored s2.pc.toNat := by
  refine ⟨_, State.fetch_of_le hpc, ?_⟩
  rw [toNat_wordOfBytes, hmem, s.toNat_read_writeBytes base hbs, s.toNat_read_writeBytes base hbs, State.wordAfterStore]

/-- Settles O46: within the bound either instruction completes with its bytes written, and a fetch reads that memory. -/
theorem fetchSeesStore : Obligations.FetchSeesStore := by
  intro x s
  refine ⟨fun h => ?_, fun h => ?_⟩
  · have hf : faultOf (.ldB x) s = none := if_neg (Nat.not_lt.2 h)
    exact ⟨_, exec_eq_completed hf, fun s2 => s.fetch_after_writeBytes (storedBytes_decimalDigits s x)⟩
  · have hf : faultOf (.ldMemVx x) s = none := if_neg (Nat.not_lt.2 h)
    exact ⟨_, exec_eq_completed hf, fun s2 => s.fetch_after_writeBytes (storedBytes_regsUpTo s x)⟩

end Sys2Proof.Machine

/-! SUPPORT. The fields of a word written in one of the formats of R72, and a word put together from its own fields (R71). -/

namespace Sys2Proof

theorem fieldOp_formatFA (p : BitVec 4) (a : Addr) : fieldOp (p ++ a : Word) = p := by
  apply BitVec.eq_of_toNat_eq
  rw [fieldOp_toNat, toNat_formatFA]
  omega

theorem fieldNNN_formatFA (p : BitVec 4) (a : Addr) : fieldNNN (p ++ a : Word) = a := by
  apply BitVec.eq_of_toNat_eq
  rw [fieldNNN_toNat, toNat_formatFA]
  omega

theorem fieldOp_formatFI (p x : BitVec 4) (b : Byte) : fieldOp (p ++ x ++ b : Word) = p := by
  apply BitVec.eq_of_toNat_eq
  rw [fieldOp_toNat, toNat_formatFI]
  omega

theorem fieldX_formatFI (p x : BitVec 4) (b : Byte) : fieldX (p ++ x ++ b : Word) = x := by
  apply BitVec.eq_of_toNat_eq
  rw [fieldX_toNat, toNat_formatFI]
  omega

theorem fieldNN_formatFI (p x : BitVec 4) (b : Byte) : fieldNN (p ++ x ++ b : Word) = b := by
  apply BitVec.eq_of_toNat_eq
  rw [fieldNN_toNat, toNat_formatFI]
  omega

theorem fieldOp_formatFR (p x y n : BitVec 4) : fieldOp (p ++ x ++ y ++ n : Word) = p := by
  apply BitVec.eq_of_toNat_eq
  rw [fieldOp_toNat, toNat_formatFR]
  omega

theorem fieldX_formatFR (p x y n : BitVec 4) : fieldX (p ++ x ++ y ++ n : Word) = x := by
  apply BitVec.eq_of_toNat_eq
  rw [fieldX_toNat, toNat_formatFR]
  omega

theorem fieldY_formatFR (p x y n : BitVec 4) : fieldY (p ++ x ++ y ++ n : Word) = y := by
  apply BitVec.eq_of_toNat_eq
  rw [fieldY_toNat, toNat_formatFR]
  omega

theorem fieldN_formatFR (p x y n : BitVec 4) : fieldN (p ++ x ++ y ++ n : Word) = n := by
  apply BitVec.eq_of_toNat_eq
  rw [fieldN_toNat, toNat_formatFR]
  omega

/-- Settles O1: the decoder reads back from each format exactly the fields that the encoder put there. -/
theorem decodeEncode : Obligations.DecodeEncode := by
  intro i hwf
  cases i with
  | cls | ret => rfl
  | jp | call | ldI | jpV0 =>
    rw [encode, decode, fieldOp_formatFA, fieldNNN_formatFA]
    rfl
  | seImm | sneImm | ldImm | addImm | rnd | skp | sknp | ldVxDT | ldVxK | ldDTVx | ldSTVx | addI | ldF | ldB | ldMemVx | ldVxMem =>
    rw [encode, decode, fieldOp_formatFI, fieldX_formatFI, fieldNN_formatFI]
    rfl
  | drw x y n =>
    have hn : n ≤ 15 := of_decide_eq_true hwf
    have hheight : (BitVec.ofNat 4 n).toNat = n := by rw [BitVec.toNat_ofNat, Nat.mod_eq_of_lt (by omega)]
    rw [encode, decode, fieldOp_formatFR, fieldX_formatFR, fieldY_formatFR, fieldN_formatFR, hheight]
    rfl
  | _ =>
    rw [encode, decode, fieldOp_formatFR, fieldX_formatFR, fieldY_formatFR, fieldN_formatFR]
    rfl

end Sys2Proof

/-! SUPPORT. What the decoder answers encodes back to the word it was given, group by group (R70, R71, R75). -/

namespace Sys2Proof

theorem nibble_eq_of_toNat {n : BitVec 4} {k : Nat} (h : n.toNat = k) : n = BitVec.ofNat 4 k := by
  rw [← h, BitVec.ofNat_toNat, BitVec.setWidth_eq]

/-! ### A word put together from its own fields, `op` being known -/

theorem formatFA_of_op {w : Word} {k : Nat} (h : (fieldOp w).toNat = k) :
    (BitVec.ofNat 4 k ++ fieldNNN w : Word) = w := by
  apply BitVec.eq_of_toNat_eq
  rw [← nibble_eq_of_toNat h, toNat_formatFA, fieldOp_toNat, fieldNNN_toNat]
  omega

theorem formatFI_of_op {w : Word} {k : Nat} (h : (fieldOp w).toNat = k) :
    (BitVec.ofNat 4 k ++ fieldX w ++ fieldNN w : Word) = w := by
  apply BitVec.eq_of_toNat_eq
  rw [← nibble_eq_of_toNat h, toNat_formatFI, fieldOp_toNat, fieldX_toNat, fieldNN_toNat]
  omega

theorem formatFR_of_op {w : Word} {k : Nat} (h : (fieldOp w).toNat = k) :
    (BitVec.ofNat 4 k ++ fieldX w ++ fieldY w ++ fieldN w : Word) = w := by
  rw [← nibble_eq_of_toNat h]
  exact (word_eq_nibbles w).symm

/-! ### The groups that select by more than `op` -/

/-- A selector that matches gives its instruction; otherwise the tests after it decide. -/
theorem instr_of_ite {c : Prop} [Decidable c] {i j : Instr} {d : Decoded}
    (h : (if c then .instr j else d) = Decoded.instr i) : (c ∧ j = i) ∨ d = .instr i := by
  by_cases hc : c
  · rw [if_pos hc] at h
    exact .inl ⟨hc, Decoded.instr.inj h⟩
  · rw [if_neg hc] at h
    exact .inr h

theorem encode_of_decodeGroup0 {w : Word} {i : Instr} (h : decodeGroup0 w = .instr i) :
    i.WellFormed = true ∧ encode i = w := by
  obtain ⟨hcls, rfl⟩ | h := instr_of_ite h
  · exact ⟨rfl, hcls.symm⟩
  · obtain ⟨hret, rfl⟩ | h := instr_of_ite h
    · exact ⟨rfl, hret.symm⟩
    · cases h

theorem encode_of_decodeGroup8 {x y : Reg} {n : BitVec 4} {i : Instr} (h : decodeGroup8 x y n = .instr i) :
    i.WellFormed = true ∧ encode i = 0x8#4 ++ x ++ y ++ n := by
  unfold decodeGroup8 at h
  split at h <;> cases h
  all_goals
    next hn =>
      obtain rfl := nibble_eq_of_toNat hn
      exact ⟨rfl, rfl⟩

theorem encode_of_decodeGroupE {x : Reg} {nn : Byte} {i : Instr} (h : decodeGroupE x nn = .instr i) :
    i.WellFormed = true ∧ encode i = 0xE#4 ++ x ++ nn := by
  unfold decodeGroupE at h
  repeat' split at h
  all_goals cases h
  all_goals
    subst nn
    exact ⟨rfl, rfl⟩

theorem encode_of_decodeGroupF {x : Reg} {nn : Byte} {i : Instr} (h : decodeGroupF x nn = .instr i) :
    i.WellFormed = true ∧ encode i = 0xF#4 ++ x ++ nn := by
  unfold decodeGroupF at h
  repeat' split at h
  all_goals cases h
  all_goals
    subst nn
    exact ⟨rfl, rfl⟩

/-- Settles O2: a row that `op` alone decides carries the rest of the word as operands, and each group that selects further
encodes back the selector it was read from. -/
theorem encodeDecode : Obligations.EncodeDecode := by
  intro w i h
  unfold decode at h
  generalize hop : (fieldOp w).toNat = op at h
  match op, hop, h with
  | 0x0, hop, h => exact encode_of_decodeGroup0 h
  | 0x1, hop, h | 0x2, hop, h | 0xA, hop, h | 0xB, hop, h =>
    cases h
    exact ⟨rfl, formatFA_of_op hop⟩
  | 0x3, hop, h | 0x4, hop, h | 0x6, hop, h | 0x7, hop, h | 0xC, hop, h =>
    cases h
    exact ⟨rfl, formatFI_of_op hop⟩
  | 0x5, hop, h | 0x9, hop, h =>
    obtain ⟨hn, rfl⟩ | h := instr_of_ite h
    · have hw := formatFR_of_op hop
      rw [hn] at hw
      exact ⟨rfl, hw⟩
    · cases h
  | 0x8, hop, h => exact (encode_of_decodeGroup8 h).imp_right fun he => he.trans (formatFR_of_op hop)
  | 0xD, hop, h =>
    cases h
    have hn : BitVec.ofNat 4 (fieldN w).toNat = fieldN w := (nibble_eq_of_toNat rfl).symm
    refine ⟨decide_eq_true (Nat.le_of_lt_succ (fieldN w).isLt), ?_⟩
    rw [encode, hn]
    exact formatFR_of_op hop
  | 0xE, hop, h => exact (encode_of_decodeGroupE h).imp_right fun he => he.trans (formatFI_of_op hop)
  | 0xF, hop, h => exact (encode_of_decodeGroupF h).imp_right fun he => he.trans (formatFI_of_op hop)
  | _ + 16, hop, _ => exact absurd (fieldOp w).isLt (by omega)

end Sys2Proof

/-! SUPPORT. The opcode map against the decoder: each row is the row of an instruction, and a word that matches it decodes to an
instruction of that row (R74). -/

namespace Sys2Proof.Laws.FitsRow

theorem every : ∀ i : Instr, Statement i
  | .cls => cls
  | .ret => ret
  | .jp nnn => jp nnn
  | .call nnn => call nnn
  | .seImm x nn => seImm x nn
  | .sneImm x nn => sneImm x nn
  | .seReg x y => seReg x y
  | .ldImm x nn => ldImm x nn
  | .addImm x nn => addImm x nn
  | .ldReg x y => ldReg x y
  | .orReg x y => orReg x y
  | .andReg x y => andReg x y
  | .xorReg x y => xorReg x y
  | .addReg x y => addReg x y
  | .subReg x y => subReg x y
  | .shr x y => shr x y
  | .subnReg x y => subnReg x y
  | .shl x y => shl x y
  | .sneReg x y => sneReg x y
  | .ldI nnn => ldI nnn
  | .jpV0 nnn => jpV0 nnn
  | .rnd x nn => rnd x nn
  | .drw x y n => drw x y n
  | .skp x => skp x
  | .sknp x => sknp x
  | .ldVxDT x => ldVxDT x
  | .ldVxK x => ldVxK x
  | .ldDTVx x => ldDTVx x
  | .ldSTVx x => ldSTVx x
  | .addI x => addI x
  | .ldF x => ldF x
  | .ldB x => ldB x
  | .ldMemVx x => ldMemVx x
  | .ldVxMem x => ldVxMem x

end Sys2Proof.Laws.FitsRow

namespace Sys2Proof

/-- One instruction for each row of the opcode map, in its order, every operand 0. -/
def rowInstrs : List Instr :=
  [.cls, .ret, .jp 0, .call 0, .seImm 0 0, .sneImm 0 0, .seReg 0 0, .ldImm 0 0, .addImm 0 0, .ldReg 0 0, .orReg 0 0,
   .andReg 0 0, .xorReg 0 0, .addReg 0 0, .subReg 0 0, .shr 0 0, .subnReg 0 0, .shl 0 0, .sneReg 0 0, .ldI 0, .jpV0 0,
   .rnd 0 0, .drw 0 0 0, .skp 0, .sknp 0, .ldVxDT 0, .ldVxK 0, .ldDTVx 0, .ldSTVx 0, .addI 0, .ldF 0, .ldB 0, .ldMemVx 0,
   .ldVxMem 0]

theorem opcodeMap_eq_rowInstrs : opcodeMap = rowInstrs.map Instr.row := rfl

theorem exists_instr_of_row {r : OpcodeRow} (h : r ∈ opcodeMap) : ∃ i : Instr, i.row = r := by
  rw [opcodeMap_eq_rowInstrs] at h
  obtain ⟨i, -, hi⟩ := List.mem_map.1 h
  exact ⟨i, hi⟩

/-! ### What a match fixes of a word's fields -/

theorem fieldOp_of_mask_op {w k : Word} (h : w &&& 0xF000 = k) : fieldOp w = fieldOp k := by
  apply BitVec.eq_of_toNat_eq
  rw [fieldOp_toNat, fieldOp_toNat, ← h, mask_op_toNat]
  omega

theorem fields_of_mask_op_n {w k : Word} (h : w &&& 0xF00F = k) : fieldOp w = fieldOp k ∧ fieldN w = fieldN k := by
  constructor <;> apply BitVec.eq_of_toNat_eq
  · rw [fieldOp_toNat, fieldOp_toNat, ← h, mask_op_n_toNat]
    omega
  · rw [fieldN_toNat, fieldN_toNat, ← h, mask_op_n_toNat]
    omega

theorem fields_of_mask_op_nn {w k : Word} (h : w &&& 0xF0FF = k) : fieldOp w = fieldOp k ∧ fieldNN w = fieldNN k := by
  constructor <;> apply BitVec.eq_of_toNat_eq
  · rw [fieldOp_toNat, fieldOp_toNat, ← h, mask_op_nn_toNat]
    omega
  · rw [fieldNN_toNat, fieldNN_toNat, ← h, mask_op_nn_toNat]
    omega

/-- The row of what the decoder answers. -/
def Decoded.row? : Decoded → Option OpcodeRow
  | .instr i => some i.row
  | .illegal _ => none

theorem Decoded.row?_eq_some {d : Decoded} {r : OpcodeRow} : d.row? = some r ↔ ∃ i, d = .instr i ∧ i.row = r := by
  cases d <;> simp [Decoded.row?]

/-- A word that matches the row of an instruction decodes to an instruction of that row: the match fixes every field the decoder
selects by. -/
theorem decode_row?_of_row_match {w : Word} {i : Instr} (h : w &&& i.row.mask = i.row.pattern) :
    (decode w).row? = some i.row := by
  cases i with
  | cls | ret =>
    obtain rfl := (mask_all w).symm.trans h
    rfl
  | jp | call | seImm | sneImm | ldImm | addImm | ldI | jpV0 | rnd | drw =>
    dsimp only [Instr.row] at h
    rw [decode, fieldOp_of_mask_op h]
    rfl
  | skp | sknp | ldVxDT | ldVxK | ldDTVx | ldSTVx | addI | ldF | ldB | ldMemVx | ldVxMem =>
    dsimp only [Instr.row] at h
    obtain ⟨hop, hnn⟩ := fields_of_mask_op_nn h
    rw [decode, hop, hnn]
    rfl
  | _ =>
    dsimp only [Instr.row] at h
    obtain ⟨hop, hn⟩ := fields_of_mask_op_n h
    rw [decode, hop, hn]
    rfl

theorem decode_of_mem_opcodeMap {w : Word} {r : OpcodeRow} (hr : r ∈ opcodeMap) (h : w &&& r.mask = r.pattern) :
    ∃ i, decode w = .instr i ∧ i.row = r := by
  obtain ⟨i, rfl⟩ := exists_instr_of_row hr
  exact Decoded.row?_eq_some.1 (decode_row?_of_row_match h)

/-- A word that decodes is its instruction's encoding, so it matches that instruction's row. -/
theorem row_match_of_decode {w : Word} {i : Instr} (h : decode w = .instr i) :
    i.row ∈ opcodeMap ∧ w &&& i.row.mask = i.row.pattern := by
  obtain ⟨-, rfl⟩ := encodeDecode w i h
  exact Laws.FitsRow.every i

/-- At most one row matches a word: a row that does is the row of the instruction the word decodes to. -/
theorem row_unique {w : Word} {r r' : OpcodeRow} (hr : r ∈ opcodeMap) (hr' : r' ∈ opcodeMap)
    (h : w &&& r.mask = r.pattern) (h' : w &&& r'.mask = r'.pattern) : r = r' := by
  obtain ⟨i, hi, rfl⟩ := decode_of_mem_opcodeMap hr h
  obtain ⟨j, hj, rfl⟩ := decode_of_mem_opcodeMap hr' h'
  cases hi.symm.trans hj
  rfl

end Sys2Proof

namespace Sys2Proof.Machine

/-- A running cycle that fetches an illegal word takes the DecodeFault (R102, R230). -/
theorem cycle_of_illegal {s : State} {w : Word} {why : Reject} (hm : s.mode = .running) (hw : s.fetch = .ok w)
    (hd : decode w = .illegal why) : cycle s = .next (s.raise .decode (some w) none) := by
  simp only [cycle, hm, runInstruction, hw, hd]

/-- Settles O3: a decoded word is the encoding of its instruction and so matches its row; a match fixes the fields that the
decoder selects by; two rows that match one word are therefore the row of its one instruction. -/
theorem decodeByMaskAndMatch : Obligations.DecodeByMaskAndMatch := by
  refine ⟨fun w i => row_match_of_decode, fun w r => decode_of_mem_opcodeMap, length_opcodeMap,
    fun w r r' => row_unique, fun s w hm hw hnone => ?_⟩
  cases hd : decode w with
  | instr i =>
    obtain ⟨hrow, hmatch⟩ := row_match_of_decode hd
    exact absurd hmatch (hnone _ hrow)
  | illegal why => exact cycle_of_illegal hm hw hd

end Sys2Proof.Machine

/-! SUPPORT. The words the decoder refuses, as numbers (R77). -/

namespace Sys2Proof

/-- The numbers of the illegal words, group by group as R77 lists them. `decode_illegal_iff` ties it to the decoder. -/
def IllegalNumber (k : Nat) : Prop :=
  (k / 4096 = 0x0 ∧ k ≠ 0x00E0 ∧ k ≠ 0x00EE) ∨
  (k / 4096 = 0x5 ∧ k % 16 ≠ 0) ∨
  (k / 4096 = 0x8 ∧ k % 16 ∈ [0x8, 0x9, 0xA, 0xB, 0xC, 0xD, 0xF]) ∨
  (k / 4096 = 0x9 ∧ k % 16 ≠ 0) ∨
  (k / 4096 = 0xE ∧ k % 256 ∉ [0x9E, 0xA1]) ∨
  (k / 4096 = 0xF ∧ k % 256 ∉ [0x07, 0x0A, 0x15, 0x18, 0x1E, 0x29, 0x33, 0x55, 0x65])

/-! ### Each group's refusals -/

/-- A selector that does not match leaves the refusal to the tests after it. -/
theorem illegal_ite_iff {c : Prop} [Decidable c] {i : Instr} {d : Decoded} :
    (∃ why, (if c then .instr i else d) = Decoded.illegal why) ↔ ¬ c ∧ ∃ why, d = .illegal why := by
  by_cases hc : c
  · rw [if_pos hc]
    exact ⟨fun ⟨_, h⟩ => (nomatch h), fun h => absurd hc h.1⟩
  · rw [if_neg hc]
    exact ⟨fun h => ⟨hc, h⟩, fun h => h.2⟩

theorem illegal_illegal_iff (why : Reject) : (∃ why', Decoded.illegal why = .illegal why') ↔ True :=
  iff_true_intro ⟨why, rfl⟩

theorem decodeGroup0_illegal_iff (w : Word) :
    (∃ why, decodeGroup0 w = .illegal why) ↔ w.toNat ≠ 0x00E0 ∧ w.toNat ≠ 0x00EE := by
  rw [decodeGroup0, illegal_ite_iff, illegal_ite_iff, illegal_illegal_iff, and_true, ← BitVec.toNat_inj, ← BitVec.toNat_inj]
  exact Iff.rfl

theorem decodeGroup8_illegal_iff (x y : Reg) (n : BitVec 4) :
    (∃ why, decodeGroup8 x y n = .illegal why) ↔ n.toNat ∈ [0x8, 0x9, 0xA, 0xB, 0xC, 0xD, 0xF] := by
  have hlt := n.isLt
  unfold decodeGroup8
  generalize n.toNat = k at hlt
  match k, hlt with
  | 0x0, _ | 0x1, _ | 0x2, _ | 0x3, _ | 0x4, _ | 0x5, _ | 0x6, _ | 0x7, _ | 0xE, _ =>
    exact ⟨fun ⟨_, h⟩ => (nomatch h), fun h => absurd h (by decide)⟩
  | 0x8, _ | 0x9, _ | 0xA, _ | 0xB, _ | 0xC, _ | 0xD, _ | 0xF, _ => exact ⟨fun _ => by decide, fun _ => ⟨_, rfl⟩⟩
  | _ + 16, hlt => omega

theorem decodeGroupE_illegal_iff (x : Reg) (nn : Byte) :
    (∃ why, decodeGroupE x nn = .illegal why) ↔ nn.toNat ∉ [0x9E, 0xA1] := by
  simp only [decodeGroupE, illegal_ite_iff, illegal_illegal_iff, ← BitVec.toNat_inj, List.mem_cons, List.not_mem_nil,
    not_or, not_false_eq_true]
  exact Iff.rfl

theorem decodeGroupF_illegal_iff (x : Reg) (nn : Byte) :
    (∃ why, decodeGroupF x nn = .illegal why) ↔
      nn.toNat ∉ [0x07, 0x0A, 0x15, 0x18, 0x1E, 0x29, 0x33, 0x55, 0x65] := by
  simp only [decodeGroupF, illegal_ite_iff, illegal_illegal_iff, ← BitVec.toNat_inj, List.mem_cons, List.not_mem_nil,
    not_or, not_false_eq_true]
  exact Iff.rfl

/-- Groups 5 and 9, in which the low nibble must be 0. -/
theorem nibble_select_illegal_iff (w : Word) (i : Instr) (why : Reject) :
    (∃ r, (if fieldN w = 0 then Decoded.instr i else .illegal why) = .illegal r) ↔ w.toNat % 16 ≠ 0 := by
  rw [illegal_ite_iff, illegal_illegal_iff, and_true, ← BitVec.toNat_inj, fieldN_toNat]
  exact Iff.rfl

/-- The decoder refuses exactly the words of R77: `op` says which group's test decides. -/
theorem decode_illegal_iff (w : Word) : (∃ why, decode w = .illegal why) ↔ IllegalNumber w.toNat := by
  unfold decode IllegalNumber
  rw [← fieldOp_toNat]
  generalize hop : (fieldOp w).toNat = op
  match op, hop with
  | 0x0, _ => simpa using decodeGroup0_illegal_iff w
  | 0x1, _ | 0x2, _ | 0x3, _ | 0x4, _ | 0x6, _ | 0x7, _ | 0xA, _ | 0xB, _ | 0xC, _ | 0xD, _ => simp
  | 0x5, _ => simpa using nibble_select_illegal_iff w (.seReg (fieldX w) (fieldY w)) .group5
  | 0x8, _ => simpa [fieldN_toNat] using decodeGroup8_illegal_iff (fieldX w) (fieldY w) (fieldN w)
  | 0x9, _ => simpa using nibble_select_illegal_iff w (.sneReg (fieldX w) (fieldY w)) .group9
  | 0xE, _ => simpa [fieldNN_toNat] using decodeGroupE_illegal_iff (fieldX w) (fieldNN w)
  | 0xF, _ => simpa [fieldNN_toNat] using decodeGroupF_illegal_iff (fieldX w) (fieldNN w)
  | _ + 16, hop => exact absurd (fieldOp w).isLt (by omega)

end Sys2Proof

namespace Sys2Proof.Machine

/-- Settles O4: each group refuses what its selector does not name, and the cycle takes the fault with the word it fetched. -/
theorem illegalWords : Obligations.IllegalWords :=
  ⟨rfl, decode_illegal_iff, fun _ _ _ hm hw hd => ⟨cycle_of_illegal hm hw hd, rfl⟩⟩

end Sys2Proof.Machine

/-! SUPPORT. How many words decode (R78): in each group the legal words are those whose lowest bits, the part that the decoder
selects by, are one of a few values. -/

namespace Sys2Proof

/-! ### Counting along a range -/

/-- A range counted block by block. -/
theorem countP_range_mul (p : Nat → Bool) (m b : Nat) :
    (List.range (m * b)).countP p = ((List.range m).map fun j => (List.range b).countP fun k => p (j * b + k)).sum := by
  induction m with
  | zero => simp
  | succ m ih =>
    rw [Nat.succ_mul, List.range_add, List.countP_append, ih, List.countP_map, List.range_succ, List.map_append,
      List.sum_append]
    simp [Function.comp_def]

/-- A predicate on the remainder holds equally often in every block. -/
theorem countP_range_mod (p : Nat → Bool) (m b : Nat) :
    (List.range (m * b)).countP (fun k => p (k % b)) = m * (List.range b).countP p := by
  have hblock : ∀ j, (List.range b).countP (fun k => p ((j * b + k) % b)) = (List.range b).countP p := by
    intro j
    refine List.countP_congr fun k hk => ?_
    rw [Nat.mul_add_mod_self_right, Nat.mod_eq_of_lt (List.mem_range.1 hk)]
  rw [countP_range_mul]
  simp only [hblock, List.map_const', List.length_range, List.sum_replicate_nat]

theorem countP_range_mem {l : List Nat} {n : Nat} (hl : l.Nodup) (hn : ∀ k ∈ l, k < n) :
    (List.range n).countP (fun k => k ∈ l) = l.length := by
  rw [List.countP_eq_length_filter]
  refine ((List.perm_ext_iff_of_nodup (List.nodup_range.filter _) hl).2 fun k => ?_).length_eq
  rw [List.mem_filter, List.mem_range, decide_eq_true_iff]
  exact and_iff_right_of_imp (hn k)

theorem countP_isSome_add_isNone {α β : Type} (f : α → Option β) (l : List α) :
    l.countP (fun a => (f a).isSome) + l.countP (fun a => (f a).isNone) = l.length := by
  rw [List.length_eq_countP_add_countP (fun a => (f a).isSome)]
  exact congrArg _ (List.countP_congr fun a _ => by simp)

/-! ### Words by their number -/

theorem wordOfBytes_bytes (w : Word) : wordOfBytes (w.extractLsb' 8 8) (w.extractLsb' 0 8) = w := by
  apply BitVec.eq_of_toNat_eq
  rw [Machine.toNat_wordOfBytes, BitVec.extractLsb'_toNat, BitVec.extractLsb'_toNat, Nat.shiftRight_eq_div_pow,
    Nat.shiftRight_eq_div_pow]
  omega

theorem decodeTableWord_isSome {k : Nat} (hk : k < 65536) :
    (decodeTableWord 16 k).isSome = true ↔ ¬ IllegalNumber k := by
  have hw : (BitVec.ofNat 16 (k % 2 ^ 16)).toNat = k := by
    rw [BitVec.toNat_ofNat]
    omega
  have h := decode_illegal_iff (BitVec.ofNat 16 (k % 2 ^ 16))
  rw [hw] at h
  rw [← h, decodeTableWord, bytesOfWord, decodeBytes, wordOfBytes_bytes]
  cases decode (BitVec.ofNat 16 (k % 2 ^ 16)) <;> simp

/-- A word of a known group is illegal by its lowest bits alone. -/
theorem illegalNumber_iff_in_group {g k : Nat} (hk : k < 4096) :
    IllegalNumber (g * 4096 + k) ↔
      (g = 0x0 ∧ k ∉ [0x0E0, 0x0EE]) ∨ (g = 0x5 ∧ k % 16 ∉ [0]) ∨
      (g = 0x8 ∧ k % 16 ∉ [0x0, 0x1, 0x2, 0x3, 0x4, 0x5, 0x6, 0x7, 0xE]) ∨ (g = 0x9 ∧ k % 16 ∉ [0]) ∨
      (g = 0xE ∧ k % 256 ∉ [0x9E, 0xA1]) ∨
      (g = 0xF ∧ k % 256 ∉ [0x07, 0x0A, 0x15, 0x18, 0x1E, 0x29, 0x33, 0x55, 0x65]) := by
  have hg : (g * 4096 + k) / 4096 = g := by omega
  have hn : (g * 4096 + k) % 16 = k % 16 := by omega
  have hnn : (g * 4096 + k) % 256 = k % 256 := by omega
  have h0 : (g = 0x0 ∧ g * 4096 + k ≠ 0x00E0 ∧ g * 4096 + k ≠ 0x00EE) ↔ (g = 0x0 ∧ k ∉ [0x0E0, 0x0EE]) :=
    and_congr_right fun h => by simp [h]
  have h8 : ∀ n < 16, n ∈ [0x8, 0x9, 0xA, 0xB, 0xC, 0xD, 0xF] ↔ n ∉ [0x0, 0x1, 0x2, 0x3, 0x4, 0x5, 0x6, 0x7, 0xE] := by
    decide
  rw [IllegalNumber, hg, hn, hnn, h0, h8 _ (Nat.mod_lt k (by decide))]
  simp only [ne_eq, List.mem_singleton]

/-- A group of `m` blocks of `b` words in which the words with one of the remainders `l` are legal. -/
theorem countP_group_of_remainders {g : Nat} (m b : Nat) (l : List Nat) (hg : g < 16) (hmb : m * b = 4096) (hl : l.Nodup)
    (hb : ∀ n ∈ l, n < b) (h : ∀ k < 4096, IllegalNumber (g * 4096 + k) ↔ k % b ∉ l) :
    (List.range 4096).countP (fun k => (decodeTableWord 16 (g * 4096 + k)).isSome) = m * l.length := by
  calc (List.range 4096).countP (fun k => (decodeTableWord 16 (g * 4096 + k)).isSome)
    _ = (List.range 4096).countP fun k => k % b ∈ l := by
        refine List.countP_congr fun k hk => ?_
        have hk := List.mem_range.1 hk
        rw [decodeTableWord_isSome (by omega), h k hk, Classical.not_not, decide_eq_true_iff]
    _ = m * (List.range b).countP fun n => n ∈ l := by
        rw [← hmb]
        exact countP_range_mod (fun n => n ∈ l) m b
    _ = m * l.length := by rw [countP_range_mem hl hb]

/-- How many words of a group are legal, as R78 counts them. -/
def legalInGroup : Nat → Nat
  | 0x0 => 2
  | 0x5 => 256
  | 0x8 => 2304
  | 0x9 => 256
  | 0xE => 32
  | 0xF => 144
  | _ => 4096

theorem countP_group {g : Nat} (hg : g < 16) :
    (List.range 4096).countP (fun k => (decodeTableWord 16 (g * 4096 + k)).isSome) = legalInGroup g := by
  match g, hg with
  | 0x0, hg =>
    refine countP_group_of_remainders 1 4096 [0x0E0, 0x0EE] hg rfl (by decide) (by decide) fun k hk => ?_
    rw [illegalNumber_iff_in_group hk, Nat.mod_eq_of_lt hk]
    simp
  | 0x5, hg | 0x9, hg =>
    refine countP_group_of_remainders 256 16 [0] hg rfl (by decide) (by decide) fun k hk => ?_
    rw [illegalNumber_iff_in_group hk]
    simp
  | 0x8, hg =>
    refine countP_group_of_remainders 256 16 [0x0, 0x1, 0x2, 0x3, 0x4, 0x5, 0x6, 0x7, 0xE] hg rfl (by decide) (by decide)
      fun k hk => ?_
    rw [illegalNumber_iff_in_group hk]
    simp
  | 0xE, hg =>
    refine countP_group_of_remainders 16 256 [0x9E, 0xA1] hg rfl (by decide) (by decide) fun k hk => ?_
    rw [illegalNumber_iff_in_group hk]
    simp
  | 0xF, hg =>
    refine countP_group_of_remainders 16 256 [0x07, 0x0A, 0x15, 0x18, 0x1E, 0x29, 0x33, 0x55, 0x65] hg rfl (by decide)
      (by decide) fun k hk => ?_
    rw [illegalNumber_iff_in_group hk]
    simp
  | 0x1, hg | 0x2, hg | 0x3, hg | 0x4, hg | 0x6, hg | 0x7, hg | 0xA, hg | 0xB, hg | 0xC, hg | 0xD, hg =>
    refine countP_group_of_remainders 4096 1 [0] hg rfl (by decide) (by decide) fun k hk => ?_
    rw [illegalNumber_iff_in_group hk, Nat.mod_one]
    simp
  | _ + 16, hg => exact absurd hg (by omega)

/-! ### The counts of R78 -/

theorem countP_legal : (List.range 65536).countP (fun k => (decodeTableWord 16 k).isSome) = 43954 := by
  calc (List.range 65536).countP (fun k => (decodeTableWord 16 k).isSome)
    _ = ((List.range 16).map fun g =>
          (List.range 4096).countP fun k => (decodeTableWord 16 (g * 4096 + k)).isSome).sum :=
        countP_range_mul (fun k => (decodeTableWord 16 k).isSome) 16 4096
    _ = ((List.range 16).map legalInGroup).sum :=
        congrArg List.sum (List.map_congr_left fun g hg => countP_group (List.mem_range.1 hg))
    _ = 43954 := rfl

theorem countP_illegal : (List.range 65536).countP (fun k => (decodeTableWord 16 k).isNone) = 21582 := by
  have h := countP_isSome_add_isNone (decodeTableWord 16) (List.range 65536)
  rw [List.length_range, countP_legal] at h
  omega

/-- Settles O6: the groups are counted one by one, and the 16 of them are all the words. -/
theorem legalWordCount : Obligations.LegalWordCount := by
  have hgroup0 := countP_group (g := 0x0) (by decide)
  simp only [Nat.zero_mul, Nat.zero_add] at hgroup0
  have hplain : ∀ g ∈ [0x1, 0x2, 0x3, 0x4, 0x6, 0x7, 0xA, 0xB, 0xC, 0xD], g < 16 ∧ legalInGroup g = 4096 := by decide
  have hnibble : ∀ g ∈ [0x5, 0x9], g < 16 ∧ legalInGroup g = 256 := by decide
  exact ⟨countP_legal, countP_illegal, fun g hg => (countP_group (hplain g hg).1).trans (hplain g hg).2, hgroup0,
    fun g hg => (countP_group (hnibble g hg).1).trans (hnibble g hg).2, countP_group (by decide), countP_group (by decide),
    countP_group (by decide)⟩

end Sys2Proof

namespace Sys2Proof

/-- Settles O5: each word is the encoding of the instruction named, which is well-formed. -/
theorem decodeSampleWords : Obligations.DecodeSampleWords :=
  ⟨decodeEncode (.jp 0xAAA) rfl, decodeEncode (.call 0x555) rfl, decodeEncode (.ldI 0x123) rfl,
    decodeEncode (.subReg 0xA 0xB) rfl, decodeEncode (.drw 1 2 5) rfl, decodeEncode (.sknp 3) rfl,
    decodeEncode (.ldVxMem 0xC) rfl⟩

end Sys2Proof

/-! SUPPORT. What an instruction and a cycle use of the host's side: RND the random byte, SKP, SKNP and the key-wait the keys,
and nothing else (R35, R36, R75, R101). -/

namespace Sys2Proof.Machine

/-- The state with another host's side. -/
def State.withHost (s : State) (host : HostSide) : State := { s with host := host }

/-! ### Through an instruction -/

theorem faultOf_withHost (i : Instr) (s : State) (host : HostSide) : faultOf i (s.withHost host) = faultOf i s := by
  cases i <;> rfl

theorem State.setRegsFrom_withHost (s : State) (host : HostSide) (i : Nat) (bs : List Byte) :
    (s.withHost host).setRegsFrom i bs = (s.setRegsFrom i bs).withHost host := by
  induction bs generalizing s i with
  | nil => rfl
  | cons b bs ih => exact ih (s.setV (BitVec.ofNat 4 i) b) (i + 1)

theorem State.faultOrElse_withHost (s : State) (i : Instr) (done : State) (host : HostSide)
    (f : Option (FaultKind × Option Word)) :
    (s.withHost host).faultOrElse i (done.withHost host) f = (s.faultOrElse i done f).withHost host := by
  cases f <;> rfl

/-- The host's sides `host` and `s.host` give an instruction the same inputs: they agree on the random byte where it is RND and
on the keys where it is SKP or SKNP. -/
structure SameInputs (i : Instr) (s : State) (host : HostSide) : Prop where
  rnd : (∃ x nn, i = .rnd x nn) → host.rnd = s.host.rnd
  keys : ((∃ x, i = .skp x) ∨ ∃ x, i = .sknp x) → host.keys = s.host.keys

theorem State.completed_withHost {s : State} {i : Instr} {host : HostSide} (h : SameInputs i s host) :
    (s.withHost host).completed i = (s.completed i).withHost host := by
  cases i with
  | rnd x nn =>
    simp only [State.completed, exec, execRnd, State.withHost, h.rnd ⟨x, nn, rfl⟩]
    rfl
  | skp x =>
    simp only [State.completed, State.keyDown, State.withHost, h.keys (.inl ⟨x, rfl⟩)]
    rfl
  | sknp x =>
    simp only [State.completed, State.keyDown, State.withHost, h.keys (.inr ⟨x, rfl⟩)]
    rfl
  | ldVxMem x =>
    have hV := congrArg State.V (s.setRegsFrom_withHost host 0 (s.mem.readBytes s.indexAddr (x.toNat + 1)))
    exact congrArg (fun V => ({ s.withHost host with V := V } : State).advance) hV
  | _ => rfl

theorem exec_withHost {i : Instr} {s t : State} {host : HostSide} (hi : SameInputs i s host) (h : exec i s = .next t) :
    exec i (s.withHost host) = .next (t.withHost host) := by
  rw [exec_eq, Host.Outcome.next.injEq] at h
  rw [exec_eq, faultOf_withHost, State.completed_withHost hi, State.faultOrElse_withHost, h]

theorem exec_host {i : Instr} {s t : State} (h : exec i s = .next t) : t.host = s.host := by
  obtain ⟨kind, addr, -, rfl⟩ | ⟨-, rfl⟩ := exec_cases h
  · exact s.raise_host _ _ _
  · exact s.completed_host i

/-! ### Through a cycle -/

theorem State.fetch_withHost (s : State) (host : HostSide) : (s.withHost host).fetch = s.fetch := rfl

theorem State.resolveWait_withHost {s : State} {host : HostSide} (h : host.keys = s.host.keys) :
    (s.withHost host).resolveWait = s.resolveWait.withHost host := by
  have hkeys : (s.withHost host).host.keys = s.host.keys := h
  unfold State.resolveWait
  rw [hkeys]
  cases firstPressed s.host.keys <;> rfl

theorem runInstruction_withHost {s t : State} {host : HostSide}
    (hi : ∀ w i, s.fetch = .ok w → decode w = .instr i → SameInputs i s host) (h : runInstruction s = .next t) :
    runInstruction (s.withHost host) = .next (t.withHost host) := by
  unfold runInstruction at h ⊢
  rw [State.fetch_withHost]
  cases hw : s.fetch with
  | error bad =>
    simp only [hw] at h ⊢
    cases h
    rfl
  | ok w =>
    cases hd : decode w with
    | illegal why =>
      simp only [hw, hd] at h ⊢
      cases h
      rfl
    | instr i =>
      simp only [hw, hd] at h ⊢
      exact exec_withHost (hi w i hw hd) h

theorem cycle_withHost {s t : State} {host : HostSide} (hwait : s.mode = .awaitingKey → host.keys = s.host.keys)
    (hi : s.mode = .running → ∀ w i, s.fetch = .ok w → decode w = .instr i → SameInputs i s host)
    (h : cycle s = .next t) : cycle (s.withHost host) = .next (t.withHost host) := by
  have hmode : (s.withHost host).mode = s.mode := rfl
  obtain ⟨hm, rfl⟩ | ⟨hm, rfl⟩ | ⟨hm, hr⟩ := cycle_cases h
  · simp only [cycle, hmode, hm]
  · simp only [cycle, hmode, hm, State.resolveWait_withHost (hwait hm)]
  · simp only [cycle, hmode, hm, runInstruction_withHost (hi hm) hr]

theorem cycle_host {s t : State} (h : cycle s = .next t) : t.host = s.host := by
  obtain ⟨-, rfl⟩ | ⟨-, rfl⟩ | ⟨-, hr⟩ := cycle_cases h
  · rfl
  · obtain ⟨k, -, hk⟩ | ⟨-, hk⟩ := s.resolveWait_cases
    · rw [hk, State.setV_host]
    · rw [hk]
  · obtain ⟨kind, word, addr, rfl⟩ | ⟨w, i, -, -, -, rfl⟩ := runInstruction_cases hr
    · exact s.raise_host _ _ _
    · exact s.completed_host i

/-! ### One input at a time -/

theorem SameInputs.of_rnd {i : Instr} (s : State) (rnd : Byte) (h : ∀ x nn, i ≠ .rnd x nn) :
    SameInputs i s { s.host with rnd := rnd } :=
  ⟨fun ⟨x, nn, hi⟩ => absurd hi (h x nn), fun _ => rfl⟩

theorem SameInputs.of_keys {i : Instr} (s : State) (keys : Keys) (hskp : ∀ x, i ≠ .skp x) (hsknp : ∀ x, i ≠ .sknp x) :
    SameInputs i s { s.host with keys := keys } :=
  ⟨fun _ => rfl, fun h => h.elim (fun ⟨x, hi⟩ => absurd hi (hskp x)) fun ⟨x, hi⟩ => absurd hi (hsknp x)⟩

/-- Settles O52: an instruction, and so a cycle, answers alike under two host's sides that give it the same inputs, and a changed
input is the same for an instruction that does not use it. -/
theorem inputsUsedOnlyBy : Obligations.InputsUsedOnlyBy := by
  refine ⟨fun i s t h => ?_, fun s t h => ?_⟩
  · rw [exec_host h]
    exact ⟨fun rnd hi => exec_withHost (.of_rnd s rnd hi) h,
      fun keys hskp hsknp => exec_withHost (.of_keys s keys hskp hsknp) h⟩
  · rw [cycle_host h]
    refine ⟨fun rnd hi => ?_, fun keys hm hi => ?_⟩
    · refine cycle_withHost (fun _ => rfl) (fun hm w i hw hd => .of_rnd s rnd fun x nn hx => ?_) h
      exact hi hm w x nn hw (hx ▸ hd)
    · refine cycle_withHost (fun hwait => absurd hwait hm) (fun hrun w i hw hd => ?_) h
      exact .of_keys s keys (fun x hx => (hi hrun w x hw).1 (hx ▸ hd)) fun x hx => (hi hrun w x hw).2 (hx ▸ hd)

end Sys2Proof.Machine

/-! SUPPORT. A step up to the host's side: taking a transaction and beginning a cycle write that side alone (R20, R109, R247),
and a cycle in each mode (R100 to R103, R107). -/

namespace Sys2Proof.Machine

theorem State.takeTransaction_eq_withHost (s : State) : s.takeTransaction = s.withHost s.takeTransaction.host := by
  unfold State.takeTransaction
  cases s.host.pending <;> rfl

theorem State.sameCore_takeTransaction_beginCycle (s : State) (keys : Keys) (rnd : Byte) :
    s.sameCore (s.takeTransaction.beginCycle keys rnd) :=
  congrArg (State.beginCycle · keys rnd) s.takeTransaction_eq_withHost

/-- A step performs the next transaction on a state that differs in the host's side alone. -/
theorem exists_step_eq_perform (s : State) : ∃ host, step s = perform s.nextTransaction (s.withHost host) :=
  ⟨_, congrArg (perform s.nextTransaction) s.takeTransaction_eq_withHost⟩

theorem step_of_runCycle {s : State} {keys : Keys} {rnd : Byte} (h : s.nextTransaction = .runCycle keys rnd) :
    step s = cycle (s.takeTransaction.beginCycle keys rnd) := by
  rw [step, h]
  rfl

/-- The step of a run_cycle is a cycle of a state that differs in the host's side alone and has the cycle's keys. -/
theorem exists_step_eq_cycle {s : State} {keys : Keys} {rnd : Byte} (h : s.nextTransaction = .runCycle keys rnd) :
    ∃ host, host.keys = keys ∧ step s = cycle (s.withHost host) :=
  ⟨(s.takeTransaction.beginCycle keys rnd).host, rfl,
    (step_of_runCycle h).trans (congrArg cycle (s.sameCore_takeTransaction_beginCycle keys rnd))⟩

/-! ### A cycle in each mode -/

theorem cycle_of_faulted {s : State} (hm : s.mode = .faulted) : cycle s = .next s := by
  simp only [cycle, hm]

theorem cycle_of_awaitingKey {s : State} (hm : s.mode = .awaitingKey) : cycle s = .next s.resolveWait := by
  simp only [cycle, hm]

theorem cycle_of_instr {s : State} {w : Word} {i : Instr} (hm : s.mode = .running) (hw : s.fetch = .ok w)
    (hd : decode w = .instr i) : cycle s = exec i s := by
  simp only [cycle, hm, runInstruction, hw, hd]

theorem cycle_of_fetch_error {s : State} {bad : Word} (hm : s.mode = .running) (hw : s.fetch = .error bad) :
    cycle s = .next (s.raise .memoryBound none (some bad)) := by
  simp only [cycle, hm, runInstruction, hw]

theorem State.fetch_of_gt {s : State} (h : 0x0FFE < s.pc.toNat) : s.fetch = .error (firstBeyond s.pc) := by
  rw [State.fetch, s.readRange_of_beyond (by omega)]
  rfl

/-- Settles O7: the cycle of that step begins with the core as it was, so it fetches the word at pc and runs what it decodes
to. -/
theorem stepRunsDecoded : Obligations.StepRunsDecoded := by
  intro s keys rnd i h hm hpc hd
  have hcore := s.sameCore_takeTransaction_beginCycle keys rnd
  refine ⟨?_, hcore, rfl, rfl⟩
  have hmode : (s.takeTransaction.beginCycle keys rnd).mode = .running := s.takeTransaction_mode.trans hm
  have hfetch : (s.takeTransaction.beginCycle keys rnd).fetch = s.fetch :=
    (congrArg State.fetch hcore).trans (s.fetch_withHost _)
  rw [step_of_runCycle h]
  exact cycle_of_instr hmode (hfetch.trans (State.fetch_of_le hpc)) hd

/-- Settles O8: above the bound the fetch answers the first address out of range and the cycle raises it; at or below, the word
has the two bytes at pc. -/
theorem fetchBounds : Obligations.FetchBounds := by
  intro s
  refine ⟨fun h hm => ?_, fun h => ?_⟩
  · exact cycle_of_fetch_error hm (State.fetch_of_gt h)
  · exact ⟨_, State.fetch_of_le h, toNat_wordOfBytes _ _⟩

end Sys2Proof.Machine

/-! SUPPORT. The end of a key-wait (R101). -/

namespace Sys2Proof.Machine

theorem State.resolveWait_of_pressed {s : State} {k : Nat} (h : firstPressed s.host.keys = some k) :
    s.resolveWait = { s.setV s.waitReg (BitVec.ofNat 8 k) with mode := .running } := by
  simp only [State.resolveWait, h]

theorem State.resolveWait_of_none {s : State} (h : firstPressed s.host.keys = none) : s.resolveWait = s := by
  simp only [State.resolveWait, h]

theorem firstPressed_of_none_pressed {keys : Keys} (h : ∀ k, k < 16 → keys.getLsbD k = false) :
    firstPressed keys = none :=
  firstPressed_eq_none.2 (BitVec.eq_of_getLsbD_eq fun k hk => (h k hk).trans BitVec.getLsbD_zero.symm)

/-- Settles O10: the step resolves the wait with its own keys, and the scan finds the lowest pressed key or none. -/
theorem resolveWait : Obligations.ResolveWait := by
  intro s keys rnd h hm
  obtain ⟨host, rfl, hstep⟩ := exists_step_eq_cycle h
  have hcycle : step s = .next (s.withHost host).resolveWait := hstep.trans (cycle_of_awaitingKey hm)
  refine ⟨fun k hk hdown hlow => ⟨_, hcycle, ?_⟩, fun hnone => ⟨_, hcycle, ?_⟩⟩
  · have hfirst : firstPressed (s.withHost host).host.keys = some k := firstPressed_eq_some.2 ⟨hk, hdown, hlow⟩
    rw [State.resolveWait_of_pressed hfirst]
    refine ⟨?_, rfl, rfl, fun y hy => ?_, rfl⟩
    · have hv := (s.withHost host).setV_v_same s.waitReg (BitVec.ofNat 8 k)
      exact (congrArg BitVec.toNat hv).trans (Nat.mod_eq_of_lt (by omega))
    · exact (s.withHost host).setV_v_ne _ (List.ne_of_not_mem_cons hy)
  · rw [State.resolveWait_of_none (firstPressed_of_none_pressed hnone)]
    rfl

end Sys2Proof.Machine

/-! SUPPORT. FAULTED along a transaction (R107, R238), and what run_cycle returns (R34, R108). -/

namespace Sys2Proof.Machine

theorem State.cycleResult_eq_ok {s : State} : s.cycleResult = .ok ↔ s.fault = none := by
  unfold State.cycleResult
  cases s.fault <;> simp

theorem State.cycleResult_eq_fault {s : State} {r : FaultRecord} : s.cycleResult = .fault r ↔ s.fault = some r := by
  unfold State.cycleResult
  cases s.fault <;> simp

theorem State.tick_of_faulted {s : State} (hm : s.mode = .faulted) : s.tick = s := if_pos hm

/-- Of the transactions only initialize leaves FAULTED (R238). -/
theorem perform_of_faulted {tr : Transaction} {s t : State} (hm : s.mode = .faulted) (h : perform tr s = .next t) :
    tr = .init ∨ t.mode = .faulted := by
  cases tr with
  | init => exact .inl rfl
  | loadProgram bytes =>
    obtain ⟨-, -, rfl⟩ := loadProgram_eq_next.1 h
    exact .inr hm
  | runCycle keys rnd =>
    cases (cycle_of_faulted (s := s.beginCycle keys rnd) hm).symm.trans h
    exact .inr hm
  | tick =>
    cases h
    exact .inr (s.settled.tick_mode.trans hm)
  | ackDraw =>
    cases h
    exact .inr hm

/-- Settles O13: each transaction is performed on a state that differs in the host's side alone, so in FAULTED. -/
theorem faultedIsSticky : Obligations.FaultedIsSticky := by
  intro s hm
  obtain ⟨host, hstep⟩ := exists_step_eq_perform s
  refine ⟨fun keys rnd h => ?_, fun h => ?_, fun h => ?_, fun h => ?_, fun t ht hne => ?_⟩
  · rw [h] at hstep
    have hcycle := cycle_of_faulted (s := (s.withHost host).beginCycle keys rnd) hm
    exact ⟨_, hstep.trans hcycle, rfl, fun r hr => State.cycleResult_eq_fault.2 hr⟩
  · rw [h] at hstep
    have htick : (s.withHost host).settled.tick = (s.withHost host).settled := State.tick_of_faulted hm
    exact ⟨_, hstep.trans (congrArg Host.Outcome.next htick), rfl⟩
  · rw [h] at hstep
    exact ⟨_, hstep, rfl⟩
  · rw [h] at hstep
    exact ⟨_, hstep, rfl, rfl⟩
  · exact (perform_of_faulted (s := s.withHost host) hm (hstep.symm.trans ht)).resolve_right hne

/-- A cycle keeps the record and the mode in agreement: a fault sets both, and what does not fault sets neither (R34, R237). -/
theorem cycle_faultConsistent {s t : State} (h : s.faultConsistent) (hc : cycle s = .next t) : t.faultConsistent := by
  obtain ⟨-, rfl⟩ | ⟨hm, rfl⟩ | ⟨hm, hr⟩ := cycle_cases hc
  · exact h
  · obtain ⟨k, -, hk⟩ | ⟨-, hk⟩ := s.resolveWait_cases
    · have hnone : ¬ s.fault.isSome = true := fun hs => nomatch hm.symm.trans (h.1 hs)
      rw [hk]
      exact iff_of_false hnone (nomatch ·)
    · rwa [hk]
  · obtain ⟨kind, word, addr, rfl⟩ | ⟨w, i, -, -, -, rfl⟩ := runInstruction_cases hr
    · exact iff_of_true rfl rfl
    · exact State.completed_faultConsistent i (by rw [hm]; decide) h

/-- Settles O55: the result is read off the record, which after the cycle still agrees with the mode. -/
theorem cycleResultReports : Obligations.CycleResultReports := by
  intro s t keys rnd hs h hstep
  obtain ⟨host, -, hcycle⟩ := exists_step_eq_cycle h
  have ht : t.faultConsistent := cycle_faultConsistent (s := s.withHost host) hs (hcycle.symm.trans hstep)
  refine ⟨?_, fun r => ?_⟩
  · rw [State.cycleResult_eq_ok, ← Option.not_isSome_iff_eq_none]
    exact not_congr ht
  · rw [State.cycleResult_eq_fault]
    exact ⟨fun hr => ⟨ht.1 (Option.isSome_of_eq_some hr), hr⟩, And.right⟩

end Sys2Proof.Machine

/-! SUPPORT. Control transfer (R120 to R127): what an update of pc, or of pc and the stack, leaves as it was, and the one state
that RET, CALL and a skip each lead to. -/

namespace Sys2Proof.Machine

/-! ### The frames -/

theorem State.registerFrame_of_pc {s t : State} (h : t = { s with pc := t.pc }) : s.registerFrame t [] := by
  rw [h]
  exact ⟨fun _ _ => rfl, rfl, fun _ => rfl, ⟨rfl, rfl⟩, ⟨rfl, rfl⟩, ⟨rfl, rfl⟩, ⟨rfl, rfl, rfl⟩, rfl⟩

/-- The frame of RET and CALL: that of a register instruction but for sp and the stack. -/
theorem State.frame_of_pc_sp_stack {s t : State} (h : t = { s with pc := t.pc, sp := t.sp, stack := t.stack }) :
    s.keepsRegsBut t [] ∧ t.I = s.I ∧ s.keepsMemory t ∧ s.keepsTimers t ∧ s.keepsDisplay t ∧ s.keepsControl t ∧
      t.host = s.host := by
  rw [h]
  exact ⟨fun _ _ => rfl, rfl, fun _ => rfl, ⟨rfl, rfl⟩, ⟨rfl, rfl⟩, ⟨rfl, rfl, rfl⟩, rfl⟩

/-! ### RET and CALL (R120, R122) -/

theorem exec_eq_faultedWith {i : Instr} {s : State} {kind : FaultKind} {addr : Option Word}
    (h : faultOf i s = some (kind, addr)) : exec i s = .next (s.faultedWith kind (some (encode i)) addr) := by
  rw [exec_eq, h]
  rfl

theorem exec_ret_of_sp {s : State} {k : Nat} (hk : k < 16) (hsp : s.sp.val = k + 1) :
    exec .ret s = .next (s.popTo k hk) := by
  obtain ⟨h0, -⟩ | ⟨j, hj, hsp', h⟩ := execRet_cases s
  · omega
  · obtain rfl : j = k := by omega
    exact h

theorem exec_call_of_sp (nnn : Addr) {s : State} {k : Nat} (hk : k < 16) (hsp : s.sp.val = k) :
    exec (.call nnn) s = .next (s.pushAt k hk (addrWord nnn)) := by
  subst hsp
  obtain ⟨_, h⟩ | ⟨h16, -⟩ := execCall_cases nnn s
  · exact h
  · omega

/-- The return address does not wrap at a pc a cycle executes at (R103). -/
theorem State.toNat_pc_add_two {s : State} (h : s.pc.toNat ≤ 0x0FFE) : (s.pc + 2).toNat = s.pc.toNat + 2 := by
  bv_omega

/-- Settles O23: the state after RET is the pop at sp - 1, and at sp = 0 the table of R234 gives StackFault. -/
theorem retPops : Obligations.RetPops := by
  refine ⟨rfl, fun s k hsp => ?_, fun s h0 => exec_eq_faultedWith (i := .ret) (if_pos h0)⟩
  exact ⟨_, exec_ret_of_sp k.isLt hsp, rfl, rfl, rfl, State.frame_of_pc_sp_stack rfl⟩

/-- Settles O24: the state after CALL is the push at sp, which sets one entry, and at sp = 16 the table of R234 gives
StackFault. -/
theorem callPushes : Obligations.CallPushes := by
  intro nnn
  refine ⟨toNat_formatFA _ nnn, fun s k hsp => ?_, fun s h16 => exec_eq_faultedWith (i := .call nnn) (if_pos h16)⟩
  have hpushed : (s.pushAt k.val k.isLt (addrWord nnn)).stack[k.val] = s.pc + 2 := Vector.getElem_set_self k.isLt
  refine ⟨_, exec_call_of_sp nnn k.isLt hsp, hpushed, fun hpc => ?_, fun j hj => ?_, rfl, toNat_addrWord nnn,
    State.frame_of_pc_sp_stack rfl⟩
  · rw [hpushed]
    exact ⟨State.toNat_pc_add_two hpc, State.advance_pc_le hpc⟩
  · exact Vector.getElem_set_ne k.isLt j.isLt fun hkj => hj (Fin.ext hkj.symm)

/-! ### Jumps and skips (R121, R123 to R127) -/

/-- Settles O25: both jumps write pc alone, and the sum of a 12-bit address and a byte does not wrap in 16 bits. -/
theorem jumpTargets : Obligations.JumpTargets := by
  intro nnn s
  exact ⟨toNat_formatFA _ nnn, toNat_formatFA _ nnn,
    ⟨_, rfl, toNat_addrWord nnn, State.registerFrame_of_pc rfl⟩,
    ⟨_, rfl, toNat_jumpV0_target nnn (s.v 0), State.registerFrame_of_pc rfl⟩⟩

/-- An instruction that is a skip on `c` goes where the spec's wording `P` of that condition says, and writes pc alone. -/
theorem exec_of_skipIf {i : Instr} {s : State} {c : Bool} {P : Prop} [Decidable P] (h : exec i s = .next (s.skipIf c))
    (hc : c = true ↔ P) :
    ∃ t, exec i s = .next t ∧ t.pc = (if P then s.pc + 4 else s.pc + 2) ∧ s.registerFrame t [] :=
  ⟨_, h, s.skipIf_pc_of_iff hc, State.registerFrame_of_pc rfl⟩

/-- Settles O26: each is a skip, on the byte compared with the immediate. -/
theorem skipImmediate : Obligations.SkipImmediate := by
  intro x nn s
  exact ⟨toNat_formatFI _ x nn, toNat_formatFI _ x nn, exec_of_skipIf rfl beq_iff_eq, exec_of_skipIf rfl bne_iff_ne⟩

/-- Settles O27: each is a skip, on the two registers compared. -/
theorem skipRegister : Obligations.SkipRegister := by
  intro x y s
  exact ⟨toNat_patternFR _ x y _ rfl, toNat_patternFR _ x y _ rfl, exec_of_skipIf rfl beq_iff_eq,
    exec_of_skipIf rfl bne_iff_ne⟩

end Sys2Proof.Machine

/-! SUPPORT. The register ALU (R140 to R152): the frame of its register writes, the bytes it computes as numbers, and what
the second statement of a flag-setting instruction reads once VF is written (R13). -/

namespace Sys2Proof.Machine

/-! ### The frames -/

/-- A write to a listed register keeps the frame. -/
theorem State.registerFrame.setV {s t : State} {changed : List Reg} (h : s.registerFrame t changed) {x : Reg}
    (hx : x ∈ changed) (b : Byte) : s.registerFrame (t.setV x b) changed := by
  obtain ⟨hregs, hrest⟩ := h
  exact ⟨fun y hy => (t.setV_v_ne b (ne_of_mem_of_not_mem hx hy).symm).trans (hregs y hy), hrest⟩

theorem State.registerFrame_advance (s : State) (changed : List Reg) : s.registerFrame s.advance changed :=
  ⟨fun _ _ => rfl, rfl, fun _ => rfl, ⟨rfl, rfl⟩, ⟨rfl, rfl⟩, ⟨rfl, rfl⟩, ⟨rfl, rfl, rfl⟩, rfl⟩

/-- The frame of an instruction that writes Vx and no flag. -/
theorem State.registerFrame_setV_advance (s : State) (x : Reg) (b : Byte) : s.registerFrame (s.setV x b).advance [x] :=
  (s.registerFrame_advance _).setV (List.mem_singleton_self x) b

/-- The frame of an instruction that writes two registers, Vx and VF in either order. -/
theorem State.registerFrame_setV_setV_advance (s : State) {x y : Reg} {changed : List Reg} (hx : x ∈ changed)
    (hy : y ∈ changed) (a b : Byte) : s.registerFrame ((s.setV x a).setV y b).advance changed :=
  ((s.registerFrame_advance _).setV hx a).setV hy b

theorem VF_mem_changed (x : Reg) : VF ∈ [x, VF] := List.mem_of_getLast? rfl

/-! ### The flags and the results as numbers -/

theorem toNat_flag (P : Prop) [Decidable P] : (flag (decide P)).toNat = if P then 1 else 0 := by
  unfold flag
  by_cases h : P <;> simp [h]

theorem toNat_lowBitFlag (a : Byte) : (lowBitFlag a).toNat = a.toNat % 2 := by
  rw [lowBitFlag, BitVec.toNat_and]
  exact Nat.and_one_is_mod _

theorem toNat_highBitFlag (a : Byte) : (highBitFlag a).toNat = a.toNat / 128 := by
  rw [highBitFlag, BitVec.toNat_ushiftRight, Nat.shiftRight_eq_div_pow]

theorem toNat_sub_byte (a b : Byte) : (a - b).toNat = (a.toNat + 256 - b.toNat) % 256 := by
  bv_omega

theorem toNat_shiftRight_one (a : Byte) : (a >>> 1).toNat = a.toNat / 2 := by
  rw [BitVec.toNat_ushiftRight, Nat.shiftRight_eq_div_pow, Nat.pow_one]

theorem toNat_shiftLeft_one (a : Byte) : (a <<< 1).toNat = a.toNat * 2 % 256 := by
  rw [BitVec.toNat_shiftLeft, Nat.shiftLeft_eq, Nat.pow_one]

/-! ### The registers after VF is written -/

section FlagFirst
variable (s : State) (c : Byte) {x y : Reg}

theorem State.setVF_v_of_eq (h : x = VF) : (s.setVF c).v x = c := by
  rw [h]
  exact s.setV_v_same VF c

theorem State.setVF_v_of_ne (h : x ≠ VF) : (s.setVF c).v x = s.v x := s.setV_v_ne c h

/-- The flag stays where the result goes to another register. -/
theorem State.setVF_setV_v_VF (h : x ≠ VF) (b : Byte) : ((s.setVF c).setV x b).v VF = c :=
  (State.setV_v_ne _ b h.symm).trans (s.setV_v_same VF c)

/-- A result read from two registers after the flag `f` is written, in the four aliasings of VF: a register that is VF counts
as the flag, and any other one as what it held. -/
theorem State.result_after_flag {f r : Nat} (g : Nat → Nat → Nat) (hf : c.toNat = f)
    (hr : r = g ((s.setVF c).v x).toNat ((s.setVF c).v y).toNat) :
    (x ≠ VF → y ≠ VF → r = g (s.v x).toNat (s.v y).toNat) ∧ (x = VF → y ≠ VF → r = g f (s.v y).toNat) ∧
      (x ≠ VF → y = VF → r = g (s.v x).toNat f) ∧ (x = VF → y = VF → r = g f f) := by
  subst hr
  refine ⟨fun hx hy => ?_, fun hx hy => ?_, fun hx hy => ?_, fun hx hy => ?_⟩
  · rw [s.setVF_v_of_ne c hx, s.setVF_v_of_ne c hy]
  · rw [s.setVF_v_of_eq c hx, s.setVF_v_of_ne c hy, hf]
  · rw [s.setVF_v_of_ne c hx, s.setVF_v_of_eq c hy, hf]
  · rw [s.setVF_v_of_eq c hx, s.setVF_v_of_eq c hy, hf]

end FlagFirst

theorem State.toNat_subInto_v (s : State) (x y : Reg) :
    ((s.subInto x y).v x).toNat = ((s.v x).toNat + 256 - (s.v y).toNat) % 256 := by
  rw [State.subInto_eq, State.setV_v_same, toNat_sub_byte]

theorem State.toNat_subnInto_v (s : State) (x y : Reg) :
    ((s.subnInto x y).v x).toNat = ((s.v y).toNat + 256 - (s.v x).toNat) % 256 := by
  rw [State.subnInto_eq, State.setV_v_same, toNat_sub_byte]

theorem State.toNat_shiftRight_v (s : State) (x : Reg) : ((s.shiftRight x).v x).toNat = (s.v x).toNat / 2 := by
  rw [State.shiftRight_eq, State.setV_v_same, toNat_shiftRight_one]

theorem State.toNat_shiftLeft_v (s : State) (x : Reg) : ((s.shiftLeft x).v x).toNat = (s.v x).toNat * 2 % 256 := by
  rw [State.shiftLeft_eq, State.setV_v_same, toNat_shiftLeft_one]

/-! ### The instructions that set no flag (R140 to R145, R152) -/

/-- Settles O28: each is one write of Vx, and a sum of bytes is a sum mod 256. -/
theorem immediateForms : Obligations.ImmediateForms := by
  intro x nn s
  refine ⟨toNat_formatFI _ x nn, toNat_formatFI _ x nn,
    ⟨_, rfl, s.setV_v_same x nn, rfl, s.registerFrame_setV_advance x nn⟩,
    ⟨_, rfl, ?_, rfl, s.registerFrame_setV_advance x _⟩⟩
  rw [State.advance_v, State.setV_v_same, BitVec.toNat_add]

/-- Settles O29: each is one write of Vx, with a bitwise operation of the two registers. -/
theorem logicForms : Obligations.LogicForms := by
  intro x y s
  refine ⟨toNat_patternFR _ x y _ rfl, toNat_patternFR _ x y _ rfl, toNat_patternFR _ x y _ rfl,
    toNat_patternFR _ x y _ rfl, ⟨_, rfl, s.setV_v_same x _, rfl, s.registerFrame_setV_advance x _⟩,
    ⟨_, rfl, fun k => ?or, rfl, s.registerFrame_setV_advance x _⟩,
    ⟨_, rfl, fun k => ?and, rfl, s.registerFrame_setV_advance x _⟩,
    ⟨_, rfl, fun k => ?xor, rfl, s.registerFrame_setV_advance x _⟩⟩
  case or => rw [State.advance_v, State.setV_v_same, BitVec.getLsbD_or]
  case and => rw [State.advance_v, State.setV_v_same, BitVec.getLsbD_and]
  case xor => rw [State.advance_v, State.setV_v_same, BitVec.getLsbD_xor]

/-- Settles O34: one write of Vx, with the random byte the cycle brought and the mask. -/
theorem randomMasked : Obligations.RandomMasked := by
  intro x nn s
  refine ⟨toNat_formatFI _ x nn, _, rfl, fun k => ?_, rfl, s.registerFrame_setV_advance x _⟩
  rw [State.advance_v, State.setV_v_same, BitVec.getLsbD_and]

/-! ### The instructions that set VF (R146 to R150) -/

/-- Settles O30: the carry is written last, so it stands in VF, and the sum stays where x is another register. -/
theorem addRegister : Obligations.AddRegister := by
  intro x y s
  refine ⟨toNat_patternFR _ x y _ rfl, _, rfl, ?carry, fun hx => ?sum, rfl,
    s.registerFrame_setV_setV_advance List.mem_cons_self (VF_mem_changed x) _ _⟩
  case carry => rw [State.advance_v, State.setVF_eq, State.setV_v_same, carryFlag, toNat_flag]
  case sum => rw [State.advance_v, State.setVF_v_of_ne _ _ hx, State.setV_v_same, BitVec.toNat_add]

/-- Settles O31: the difference is read after the flag is written, so each operand is the flag where it is VF and what it
held where it is not. -/
theorem subRegister : Obligations.SubRegister := by
  intro x y s f hf
  have hflag : (greaterFlag (s.v x) (s.v y)).toNat = f := (toNat_flag _).trans hf.symm
  obtain ⟨hneither, hx, hy, hboth⟩ :=
    s.result_after_flag _ (fun a b => (a + 256 - b) % 256) hflag (State.toNat_subInto_v _ x y)
  refine ⟨toNat_patternFR _ x y _ rfl, _, rfl, fun hne => ?_, hneither, hx, hy,
    fun hxF hyF => (hboth hxF hyF).trans ?_, rfl,
    s.registerFrame_setV_setV_advance (VF_mem_changed x) List.mem_cons_self _ _⟩
  · rw [State.advance_v, State.subInto_eq, s.setVF_setV_v_VF _ hne, hflag]
  · rw [Nat.add_sub_cancel_left]

/-- Settles O32: as for SUB, with the operands of the difference the other way round. -/
theorem subnRegister : Obligations.SubnRegister := by
  intro x y s f hf
  have hflag : (lessEqFlag (s.v x) (s.v y)).toNat = f := (toNat_flag _).trans hf.symm
  obtain ⟨hneither, hx, hy, hboth⟩ :=
    s.result_after_flag _ (fun a b => (b + 256 - a) % 256) hflag (State.toNat_subnInto_v _ x y)
  refine ⟨toNat_patternFR _ x y _ rfl, _, rfl, fun hne => ?_, hneither, hx, hy,
    fun hxF hyF => (hboth hxF hyF).trans ?_, rfl,
    s.registerFrame_setV_setV_advance (VF_mem_changed x) List.mem_cons_self _ _⟩
  · rw [State.advance_v, State.subnInto_eq, s.setVF_setV_v_VF _ hne, hflag]
  · rw [Nat.add_sub_cancel_left]

/-- Settles O33: the shift reads Vx after the flag is written, so for x = F it shifts the flag: 0 or 1 to the right is 0, and
to the left it does not wrap. -/
theorem shifts : Obligations.Shifts := by
  intro x y s
  have hright := (s.setVF (lowBitFlag (s.v x))).toNat_shiftRight_v x
  have hleft := (s.setVF (highBitFlag (s.v x))).toNat_shiftLeft_v x
  refine ⟨toNat_patternFR _ x y _ rfl, toNat_patternFR _ x y _ rfl,
    ⟨_, rfl, fun hx => ⟨?_, hright.trans ?_⟩, fun hx => ?_, rfl,
      s.registerFrame_setV_setV_advance (VF_mem_changed x) List.mem_cons_self _ _⟩,
    ⟨_, rfl, fun hx => ⟨?_, hleft.trans ?_⟩, fun hx => ?_, rfl,
      s.registerFrame_setV_setV_advance (VF_mem_changed x) List.mem_cons_self _ _⟩⟩
  · rw [State.advance_v, State.shiftRight_eq, State.setVF_setV_v_VF _ _ hx, toNat_lowBitFlag]
  · rw [State.setVF_v_of_ne _ _ hx]
  · rw [State.setVF_v_of_eq _ _ hx, toNat_lowBitFlag] at hright
    rw [State.advance_v, ← hx, hright]
    omega
  · rw [State.advance_v, State.shiftLeft_eq, State.setVF_setV_v_VF _ _ hx, toNat_highBitFlag]
  · rw [State.setVF_v_of_ne _ _ hx]
  · rw [State.setVF_v_of_eq _ _ hx, toNat_highBitFlag] at hleft
    rw [State.advance_v, ← hx, hleft]
    omega

end Sys2Proof.Machine

/-! SUPPORT. The framebuffer writer (R171 to R175): the frame of CLS and DRW, and what DRW draws said by the sprite
bits that cover a pixel. -/

namespace Sys2Proof.Machine

/-- The frame of CLS and DRW, but for the registers: only V, pc, the display and the draw flag may differ. -/
theorem State.frame_of_V_pc_display {s t : State}
    (h : t = { s with V := t.V, pc := t.pc, disp := t.disp, draw := t.draw }) :
    t.I = s.I ∧ s.keepsMemory t ∧ s.keepsStack t ∧ s.keepsTimers t ∧ s.keepsControl t ∧ t.host = s.host := by
  rw [h]
  exact ⟨rfl, fun _ => rfl, ⟨rfl, rfl⟩, ⟨rfl, rfl⟩, ⟨rfl, rfl, rfl⟩, rfl⟩

/-- Settles O35: CLS has one outcome, which stores the cleared display. -/
theorem clearScreen : Obligations.ClearScreen :=
  ⟨rfl, fun _ => ⟨_, rfl, Display.pixel_clear, rfl, rfl, fun _ _ => rfl, State.frame_of_V_pc_display rfl⟩⟩

/-! ### What DRW draws (R172, R173) -/

/-- What covers a pixel is read off V[x], V[y], I and memory alone. -/
theorem State.spriteCovers_congr {s s2 : State} {x y : Reg} (n : Nat) (hx : s2.v x = s.v x) (hy : s2.v y = s.v y)
    (hI : s2.I = s.I) (hm : s2.mem = s.mem) (r : Fin 32) (c : Fin 64) :
    s2.spriteCovers x y n r c ↔ s.spriteCovers x y n r c := by
  unfold State.spriteCovers
  rw [hx, hy, hI, hm]

section Sprite
variable (s : State) (x y : Reg) {n : Nat}

/-- The sprite read at I has a 1 bit at a pixel exactly when it covers the pixel. -/
theorem State.spriteAt_readBytes (hn : n ≤ 15) (r : Fin 32) (c : Fin 64) :
    spriteAt (s.v x).toNat (s.v y).toNat (s.mem.readBytes s.indexAddr n) r c = decide (s.spriteCovers x y n r c) := by
  rw [Bool.eq_iff_iff, decide_eq_true_iff, spriteAt_iff _ _ _ (by rw [Memory.length_readBytes]; omega),
    Memory.length_readBytes]
  refine exists_congr fun k => and_congr_right fun hk => ?_
  have hbyte : (s.mem.readBytes s.indexAddr n).getD k 0 = s.mem.read (s.I.toNat + k) := by
    rw [List.getD_eq_getElem?_getD, List.getElem?_eq_getElem (by rwa [Memory.length_readBytes]), Option.getD_some,
      Memory.getElem_readBytes, State.indexAddr]
  rw [hbyte]
  exact Iff.rfl

theorem State.drawSprite_pixel (hn : n ≤ 15) (r : Fin 32) (c : Fin 64) :
    (s.drawSprite x y (s.mem.readBytes s.indexAddr n)).disp.pixel r c =
      (s.disp.pixel r c ^^ decide (s.spriteCovers x y n r c)) := by
  rw [State.drawSprite, Drawing.rows_pixel _ _ _ _ (by rw [Memory.length_readBytes]; omega),
    s.spriteAt_readBytes x y hn]

theorem State.drawSprite_hit (hn : n ≤ 15) :
    (s.drawSprite x y (s.mem.readBytes s.indexAddr n)).hit =
      decide (∃ r c, s.spriteCovers x y n r c ∧ s.disp.pixel r c = true) := by
  rw [Bool.eq_iff_iff, decide_eq_true_iff, State.drawSprite,
    Drawing.rows_hit _ _ _ _ (by rw [Memory.length_readBytes]; omega)]
  simp only [s.spriteAt_readBytes x y hn, decide_eq_true_iff, Bool.false_eq_true, false_or]

/-! ### The state after DRW -/

theorem exec_drw_of_inBounds (hb : n = 0 ∨ s.I.toNat + n - 1 ≤ 0x0FFF) :
    exec (.drw x y n) s = .next (s.completed (.drw x y n)) :=
  exec_eq_completed (i := .drw x y n) (if_neg (by omega))

theorem State.completed_drw_pixel (hn : n ≤ 15) (r : Fin 32) (c : Fin 64) :
    (s.completed (.drw x y n)).disp.pixel r c = (s.disp.pixel r c ^^ decide (s.spriteCovers x y n r c)) :=
  s.drawSprite_pixel x y hn r c

/-- VF after DRW is the collision flag, whichever registers hold the coordinates (R173). -/
theorem State.completed_drw_VF (hn : n ≤ 15) :
    (s.completed (.drw x y n)).v VF =
      flag (decide (∃ r c, s.spriteCovers x y n r c ∧ s.disp.pixel r c = true)) := by
  rw [← s.drawSprite_hit x y hn]
  exact s.setV_v_same VF _

end Sprite

/-- Settles O36: inside memory the state after DRW is the completed one, which differs in VF, pc, the display and the draw
flag; past 0xFFF the table of R234 gives MemoryBoundFault. -/
theorem drawSprite : Obligations.DrawSprite := by
  intro x y n s hn
  refine ⟨?word, fun hb => ?drawn, fun hb => exec_eq_faultedWith (i := .drw x y n) (if_pos hb)⟩
  case word =>
    have hnibble : (BitVec.ofNat 4 n).toNat = n := Nat.mod_eq_of_lt (by omega)
    exact (toNat_formatFR _ x y _).trans (congrArg _ hnibble)
  case drawn =>
    refine ⟨_, exec_drw_of_inBounds s x y hb, s.completed_drw_pixel x y hn, ?collision, rfl, rfl, fun z hz => ?other,
      State.frame_of_V_pc_display rfl⟩
    case collision => rw [s.completed_drw_VF x y hn, toNat_flag]
    case other => exact s.setV_v_ne _ (List.ne_of_not_mem_cons hz)

/-! ### A second draw (43_display.md, section 3) -/

theorem flag_eq_one_iff (P : Prop) [Decidable P] : flag (decide P) = 1 ↔ P := by
  unfold flag
  by_cases h : P <;> simp [h]

/-- Settles O37: the same pixels are covered both times, so the two XORs cancel, and a covered pixel is set before the
second draw exactly when it was clear before the first. -/
theorem drawTwiceRestores : Obligations.DrawTwiceRestores := by
  intro x y n s hn hb
  refine ⟨_, exec_drw_of_inBounds s x y hb, fun s2 hdisp hmem hI hx hy => ?_⟩
  have hb2 : n = 0 ∨ s2.I.toNat + n - 1 ≤ 0x0FFF := by rwa [hI]
  have hcovers : ∀ r c, s2.spriteCovers x y n r c ↔ s.spriteCovers x y n r c :=
    State.spriteCovers_congr n hx hy hI hmem
  have hpixel : ∀ r c, s2.disp.pixel r c = (s.disp.pixel r c ^^ decide (s.spriteCovers x y n r c)) := fun r c =>
    (congrArg (Display.pixel · r c) hdisp).trans (s.completed_drw_pixel x y hn r c)
  refine ⟨_, exec_drw_of_inBounds s2 x y hb2, fun r c => ?restored, ?collision⟩
  case restored =>
    rw [s2.completed_drw_pixel x y hn, hpixel, decide_eq_decide.2 (hcovers r c), Bool.xor_assoc, Bool.xor_self,
      Bool.xor_false]
  case collision =>
    rw [s2.completed_drw_VF x y hn, flag_eq_one_iff]
    refine exists_congr fun r => exists_congr fun c => ?_
    rw [hcovers]
    refine and_congr_right fun h => ?_
    rw [hpixel, decide_eq_true h, Bool.xor_true, Bool.not_eq_true']

end Sys2Proof.Machine

/-! SUPPORT. The keypad and timer instructions (R190 to R195): the address of a key-index fault as a number (R233), the frames
of a timer write and of the start of a key-wait, and what leaves AWAITING_KEY (R101, R193). -/

namespace Sys2Proof.Machine

/-! ### The key skips (R190, R191) -/

theorem toNat_byteWord (b : Byte) : (byteWord b).toNat = b.toNat :=
  BitVec.toNat_setWidth_of_le (by decide)

/-- Settles O38: at a key index each is a skip on that key's bit, and above 15 the table of R234 gives KeyIndexFault. -/
theorem keySkips : Obligations.KeySkips := by
  intro x s
  refine ⟨toNat_patternFX _ x _ rfl, toNat_patternFX _ x _ rfl, fun h => ?skp, fun h => ?sknp,
    fun h => ⟨_, toNat_byteWord (s.v x), exec_eq_faultedWith (i := .skp x) (if_pos h),
      exec_eq_faultedWith (i := .sknp x) (if_pos h)⟩⟩
  case skp => exact exec_of_skipIf (exec_eq_completed (i := .skp x) (if_neg (Nat.not_lt.2 h))) beq_iff_eq
  case sknp => exact exec_of_skipIf (exec_eq_completed (i := .sknp x) (if_neg (Nat.not_lt.2 h))) beq_iff_eq

/-! ### The timers (R192, R194, R195) -/

/-- The frame of a timer write, but for the timers. -/
theorem State.frame_of_pc_timers {s t : State} (h : t = { s with pc := t.pc, DT := t.DT, ST := t.ST }) :
    s.keepsRegsBut t [] ∧ t.I = s.I ∧ s.keepsMemory t ∧ s.keepsStack t ∧ s.keepsDisplay t ∧ s.keepsControl t ∧
      t.host = s.host := by
  rw [h]
  exact ⟨fun _ _ => rfl, rfl, fun _ => rfl, ⟨rfl, rfl⟩, ⟨rfl, rfl⟩, ⟨rfl, rfl, rfl⟩, rfl⟩

/-- Settles O39: the read is one write of Vx, and each of the others is a write of its timer. -/
theorem timerAccess : Obligations.TimerAccess := by
  intro x s
  exact ⟨toNat_patternFX _ x _ rfl, toNat_patternFX _ x _ rfl, toNat_patternFX _ x _ rfl,
    ⟨_, rfl, s.setV_v_same x s.DT, rfl, s.registerFrame_setV_advance x s.DT⟩,
    ⟨_, rfl, rfl, rfl, rfl, State.frame_of_pc_timers rfl⟩,
    ⟨_, rfl, rfl, rfl, rfl, State.frame_of_pc_timers rfl⟩⟩

/-! ### The key-wait (R193) -/

/-- The frame of the start of a key-wait: only pc, the mode and wait_reg may differ. -/
theorem State.frame_of_pc_mode_waitReg {s t : State}
    (h : t = { s with pc := t.pc, mode := t.mode, waitReg := t.waitReg }) :
    t.fault = s.fault ∧ s.keepsRegsBut t [] ∧ t.I = s.I ∧ s.keepsMemory t ∧ s.keepsStack t ∧ s.keepsTimers t ∧
      s.keepsDisplay t ∧ t.host = s.host := by
  rw [h]
  exact ⟨rfl, fun _ _ => rfl, rfl, fun _ => rfl, ⟨rfl, rfl⟩, ⟨rfl, rfl⟩, ⟨rfl, rfl⟩, rfl⟩

/-- A cycle ends a key-wait only with a key of its snapshot pressed (R101). -/
theorem cycle_of_awaitingKey_pressed {s t : State} (hm : s.mode = .awaitingKey) (h : cycle s = .next t) :
    t.mode = .awaitingKey ∨ ∃ k < 16, s.host.keys.getLsbD k = true := by
  cases (cycle_of_awaitingKey hm).symm.trans h
  obtain ⟨k, hk, -⟩ | ⟨-, hr⟩ := s.resolveWait_cases
  · obtain ⟨hlt, hdown, -⟩ := firstPressed_eq_some.1 hk
    exact .inr ⟨k, hlt, hdown⟩
  · rw [hr]
    exact .inl hm

/-- Of the transactions only initialize, or a cycle with a key pressed, leaves AWAITING_KEY (R193). -/
theorem perform_of_awaitingKey {tr : Transaction} {s t : State} (hm : s.mode = .awaitingKey)
    (h : perform tr s = .next t) :
    t.mode = .awaitingKey ∨ tr = .init ∨ ∃ keys rnd, tr = .runCycle keys rnd ∧ ∃ k < 16, keys.getLsbD k = true := by
  cases tr with
  | init => exact .inr (.inl rfl)
  | loadProgram bytes =>
    obtain ⟨-, -, rfl⟩ := loadProgram_eq_next.1 h
    exact .inl hm
  | runCycle keys rnd =>
    obtain hw | hpressed := cycle_of_awaitingKey_pressed (s := s.beginCycle keys rnd) hm h
    · exact .inl hw
    · exact .inr (.inr ⟨keys, rnd, rfl, hpressed⟩)
  | tick =>
    cases h
    exact .inl (s.settled.tick_mode.trans hm)
  | ackDraw =>
    cases h
    exact .inl hm

/-- Settles O40: the instruction has one outcome, which writes pc, the mode and wait_reg; and a step performs its transaction
on a state still in AWAITING_KEY, as taking the transaction writes the host's side alone. -/
theorem waitForKey : Obligations.WaitForKey := by
  refine ⟨fun x s => ?begins, fun s t hm hstep hne => ?ends⟩
  case begins =>
    exact ⟨toNat_patternFX _ x _ rfl, _, rfl, rfl, rfl, rfl, State.frame_of_pc_mode_waitReg rfl⟩
  case ends =>
    exact (perform_of_awaitingKey (s.takeTransaction_mode.trans hm) hstep).resolve_left hne

end Sys2Proof.Machine

/-! SUPPORT. The index register and memory transfer (R210 to R216): the frames, the byte that each store leaves at an address,
and the registers after a load. -/

namespace Sys2Proof.Machine

/-! ### The frames -/

/-- The frame of the writers of I and of a register load: only V, I and pc may differ. -/
theorem State.frame_of_V_I_pc {s t : State} (h : t = { s with V := t.V, I := t.I, pc := t.pc }) :
    s.keepsMemory t ∧ s.keepsStack t ∧ s.keepsTimers t ∧ s.keepsDisplay t ∧ s.keepsControl t ∧ t.host = s.host := by
  rw [h]
  exact ⟨fun _ => rfl, ⟨rfl, rfl⟩, ⟨rfl, rfl⟩, ⟨rfl, rfl⟩, ⟨rfl, rfl, rfl⟩, rfl⟩

/-- The frame of LD B and LD [I], but for memory: only memory and pc may differ. -/
theorem State.frame_of_mem_pc {s t : State} (h : t = { s with mem := t.mem, pc := t.pc }) :
    s.keepsRegsBut t [] ∧ t.I = s.I ∧ s.keepsStack t ∧ s.keepsTimers t ∧ s.keepsDisplay t ∧ s.keepsControl t ∧
      t.host = s.host := by
  rw [h]
  exact ⟨fun _ _ => rfl, rfl, ⟨rfl, rfl⟩, ⟨rfl, rfl⟩, ⟨rfl, rfl⟩, ⟨rfl, rfl, rfl⟩, rfl⟩

/-! ### The index register (R210 to R212) -/

/-- Five times a byte does not wrap in 16 bits (R212). -/
theorem toNat_byteWord_mul_five (b : Byte) : (byteWord b * 5).toNat = b.toNat * 5 := by
  rw [BitVec.toNat_mul, toNat_byteWord]
  have hb := b.isLt
  exact Nat.mod_eq_of_lt (show b.toNat * 5 < 65536 by omega)

theorem toNat_add_byteWord (i : Word) (b : Byte) : (i + byteWord b).toNat = (i.toNat + b.toNat) % 65536 := by
  rw [BitVec.toNat_add, toNat_byteWord]

/-- VF after ADD I is the range flag of the new I, x = F included (R211). -/
theorem State.toNat_setVF_rangeFlag_v (s : State) (i : Word) :
    ((s.setVF (rangeFlag i)).v VF).toNat = if 0xFFF < i.toNat then 1 else 0 := by
  rw [s.setVF_v_of_eq _ rfl]
  exact toNat_flag _

/-- Settles O41: each has one outcome, which writes I, with VF for ADD I, and pc. -/
theorem indexWrites : Obligations.IndexWrites := by
  intro nnn x s
  refine ⟨toNat_formatFA _ nnn, toNat_patternFX _ x _ rfl, toNat_patternFX _ x _ rfl, ?ldI, ?addI, ?ldF⟩
  case ldI => exact ⟨_, rfl, toNat_addrWord nnn, rfl, fun _ _ => rfl, State.frame_of_V_I_pc rfl⟩
  case addI =>
    exact ⟨_, rfl, toNat_add_byteWord s.I (s.v x), State.toNat_setVF_rangeFlag_v _ _, rfl,
      fun y hy => State.setV_v_ne _ _ (List.ne_of_not_mem_cons hy), State.frame_of_V_I_pc rfl⟩
  case ldF => exact ⟨_, rfl, toNat_byteWord_mul_five (s.v x), rfl, fun _ _ => rfl, State.frame_of_V_I_pc rfl⟩

/-! ### The stores (R213, R214) -/

theorem State.byteAfterStore_of_lt (s : State) (base : Nat) {len k : Nat} (stored : Nat → Nat) (hk : k < len) :
    s.byteAfterStore base len stored (base + k) = stored k := by
  rw [State.byteAfterStore, if_pos (by omega), Nat.add_sub_cancel_left]

/-- The `k`-th byte from I after LD B is the `k`-th decimal digit (R213). -/
theorem State.toNat_completed_ldB_read (s : State) (x : Reg) {k : Nat} (hk : k < 3) :
    ((s.completed (.ldB x)).mem.read (s.indexAddr + k)).toNat = s.bcdByte x k :=
  (s.toNat_read_writeBytes s.indexAddr (storedBytes_decimalDigits s x) _).trans
    (s.byteAfterStore_of_lt s.indexAddr _ hk)

/-- Settles O42: inside memory LD B stores the three digits and no other byte; past 0xFFF the table of R234 gives
MemoryBoundFault. -/
theorem storeBcd : Obligations.StoreBcd := by
  intro x s
  refine ⟨toNat_patternFX _ x _ rfl, fun h => ?stored, fun h => exec_eq_faultedWith (i := .ldB x) (if_pos h)⟩
  case stored =>
    have digit {k : Nat} (hk : k < 3) := s.toNat_completed_ldB_read x hk
    exact ⟨_, exec_eq_completed (i := .ldB x) (if_neg (Nat.not_lt.2 h)), digit (k := 0) (by decide),
      digit (k := 1) (by decide), digit (k := 2) (by decide), fun a ha => s.mem.read_writeBytes_of_outside ha, rfl,
      State.frame_of_mem_pc rfl⟩

theorem State.getElem?_regsUpTo (s : State) {x y : Reg} (h : y.toNat ≤ x.toNat) :
    (s.regsUpTo x)[y.toNat]? = some (s.v y) := by
  have hy : y.toNat < (s.regsUpTo x).length := by rw [State.length_regsUpTo]; omega
  rw [List.getElem?_eq_getElem hy, State.getElem_regsUpTo, BitVec.ofNat_toNat, BitVec.setWidth_eq]

/-- Settles O43: inside memory the dump stores each register at its own address and no other byte; past 0xFFF the table of
R234 gives MemoryBoundFault. -/
theorem registerDump : Obligations.RegisterDump := by
  intro x s
  refine ⟨toNat_patternFX _ x _ rfl, fun h => ?stored, fun h => exec_eq_faultedWith (i := .ldMemVx x) (if_pos h)⟩
  case stored =>
    exact ⟨_, exec_eq_completed (i := .ldMemVx x) (if_neg (Nat.not_lt.2 h)),
      fun y hy => s.mem.read_writeBytes_of_getElem? s.indexAddr (s.getElem?_regsUpTo hy),
      fun a ha => s.mem.read_writeBytes_of_outside (by rw [State.length_regsUpTo]; omega), rfl,
      State.frame_of_mem_pc rfl⟩

/-! ### The load (R215) -/

/-- A register after LD Vx, [I]: the byte at its own place from I up to Vx, what it was above. -/
theorem State.completed_ldVxMem_v (s : State) (x y : Reg) :
    (s.completed (.ldVxMem x)).v y = if y.toNat ≤ x.toNat then s.mem.read (s.indexAddr + y.toNat) else s.v y := by
  have hv : (s.completed (.ldVxMem x)).v y =
      (s.setRegsFrom 0 (s.mem.readBytes s.indexAddr (x.toNat + 1))).v y := rfl
  rw [hv, State.setRegsFrom_v _ _ _ (by rw [Memory.length_readBytes]; omega), Memory.length_readBytes]
  refine ite_congr (propext (by omega)) (fun h => ?_) fun _ => rfl
  rw [Nat.sub_zero, List.getD_eq_getElem?_getD, Memory.getElem?_readBytes _ _ (by omega), Option.getD_some]

/-- Settles O44: inside memory the load writes V0..Vx and pc; past 0xFFF the table of R234 gives MemoryBoundFault. -/
theorem registerLoad : Obligations.RegisterLoad := by
  intro x s
  refine ⟨toNat_patternFX _ x _ rfl, fun h => ?loaded, fun h => exec_eq_faultedWith (i := .ldVxMem x) (if_pos h)⟩
  case loaded =>
    exact ⟨_, exec_eq_completed (i := .ldVxMem x) (if_neg (Nat.not_lt.2 h)),
      fun y hy => (s.completed_ldVxMem_v x y).trans (if_pos hy),
      fun y hy => (s.completed_ldVxMem_v x y).trans (if_neg (Nat.not_le.2 hy)), rfl, rfl, State.frame_of_V_I_pc rfl⟩

/-! ### A dump, then a load (R216) -/

/-- Settles O45: the load reads each register from the address where the dump stored it; above 0xFF0 the sixteen bytes of the
dump pass 0xFFF. -/
theorem dumpLoadRoundTrip : Obligations.DumpLoadRoundTrip := by
  intro s
  obtain ⟨-, hdump, hfault⟩ := registerDump VF s
  refine ⟨fun h => ?restored, fun h => ?faulted⟩
  case restored =>
    have hbound : s.indexAddr + VF.toNat ≤ 0x0FFF := by rw [State.indexAddr, VF_toNat]; omega
    obtain ⟨t, ht, hstored, -, -, -, htI, -⟩ := hdump hbound
    refine ⟨t, ht, fun s2 hmem hI => ?_⟩
    have haddr : s2.indexAddr = s.indexAddr := congrArg BitVec.toNat (hI.trans htI)
    obtain ⟨-, hload, -⟩ := registerLoad VF s2
    obtain ⟨u, hu, hloaded, -⟩ := hload (by rwa [haddr])
    refine ⟨u, hu, fun y => ?_⟩
    have hy : y.toNat ≤ VF.toNat := Nat.le_of_lt_succ y.isLt
    rw [hloaded y hy, hmem, haddr, hstored y hy]
  case faulted => exact ⟨_, _, hfault (by rw [State.indexAddr, VF_toNat]; omega), rfl, rfl⟩

end Sys2Proof.Machine

/-! SUPPORT. Which instruction raises which fault (R234), and what a cycle that enters FAULTED leaves (R237). -/

namespace Sys2Proof.Machine

/-- Settles O12: exec raises the fault that the table gives; where it gives none, exec completes, and a completed instruction
keeps the record and, LD Vx, K apart, the mode. -/
theorem faultTable : Obligations.FaultTable := by
  refine ⟨rfl, rfl, rfl, fun i s => ?_⟩
  split
  next kind addr h => exact exec_eq_faultedWith h
  next h => exact ⟨_, exec_eq_completed h, s.completed_fault i, s.completed_mode i⟩

/-- The end of a key-wait raises no fault (R101). -/
theorem State.resolveWait_mode_ne_faulted {s : State} (h : s.mode ≠ .faulted) : s.resolveWait.mode ≠ .faulted := by
  obtain ⟨k, -, hr⟩ | ⟨-, hr⟩ := s.resolveWait_cases
  · rw [hr]
    exact (nomatch ·)
  · rwa [hr]

/-- A cycle enters FAULTED only by raising a fault (R237). -/
theorem cycle_eq_raise_of_faulted {s t : State} (hm : s.mode ≠ .faulted) (hc : cycle s = .next t)
    (ht : t.mode = .faulted) : ∃ kind word addr, t = s.raise kind word addr := by
  obtain ⟨hfaulted, -⟩ | ⟨-, rfl⟩ | ⟨-, hr⟩ := cycle_cases hc
  · exact absurd hfaulted hm
  · exact absurd ht (State.resolveWait_mode_ne_faulted hm)
  · obtain hraise | ⟨w, i, -, -, -, rfl⟩ := runInstruction_cases hr
    · exact hraise
    · exact absurd ht (s.completed_mode_ne_faulted i hm)

/-- Settles O11: the cycle that enters FAULTED raised a fault, which stores its record and the mode. -/
theorem faultEntry : Obligations.FaultEntry := by
  intro s t hm hc ht
  obtain ⟨kind, word, addr, rfl⟩ := cycle_eq_raise_of_faulted hm hc ht
  exact ⟨⟨kind, s.pc, word, addr⟩, rfl, rfl, State.cycleResult_eq_fault.2 rfl⟩

end Sys2Proof.Machine

/-! SUPPORT. The timers (R242 to R244): which cycles move one, and what a tick does to both. -/

namespace Sys2Proof.Machine

/-! ### Along a cycle (R242) -/

theorem State.resolveWait_keepsTimers (s : State) : s.keepsTimers s.resolveWait := by
  obtain ⟨k, -, hr⟩ | ⟨-, hr⟩ := s.resolveWait_cases
  · rw [hr]
    exact ⟨rfl, rfl⟩
  · rw [hr]
    exact ⟨rfl, rfl⟩

/-- A completed instruction that is neither LD DT nor LD ST keeps both timers. -/
theorem State.completed_timers (s : State) (i : Instr) :
    s.keepsTimers (s.completed i) ∨ ∃ x, i = .ldDTVx x ∨ i = .ldSTVx x := by
  obtain hDT | ⟨x, hi⟩ := s.completed_DT i
  · obtain hST | ⟨x, hi⟩ := s.completed_ST i
    · exact .inl ⟨hDT, hST⟩
    · exact .inr ⟨x, .inr hi⟩
  · exact .inr ⟨x, .inl hi⟩

theorem cycle_timers {s t : State} (h : cycle s = .next t) :
    s.keepsTimers t ∨ (s.mode = .running ∧ ∃ w x, s.fetch = .ok w ∧
      (decode w = .instr (.ldDTVx x) ∧ t.DT = s.v x ∧ t.ST = s.ST ∨
        decode w = .instr (.ldSTVx x) ∧ t.ST = s.v x ∧ t.DT = s.DT)) := by
  obtain ⟨-, rfl⟩ | ⟨-, rfl⟩ | ⟨hm, hr⟩ := cycle_cases h
  · exact .inl ⟨rfl, rfl⟩
  · exact .inl s.resolveWait_keepsTimers
  · obtain ⟨kind, word, addr, rfl⟩ | ⟨w, i, hw, hd, -, rfl⟩ := runInstruction_cases hr
    · exact .inl ⟨rfl, rfl⟩
    · obtain hkeep | ⟨x, rfl | rfl⟩ := s.completed_timers i
      · exact .inl hkeep
      · exact .inr ⟨hm, w, x, hw, .inl ⟨hd, rfl, rfl⟩⟩
      · exact .inr ⟨hm, w, x, hw, .inr ⟨hd, rfl, rfl⟩⟩

/-- Settles O54: the step is a cycle of a state that differs in the host's side alone, and of what a cycle completes only
LD DT, Vx and LD ST, Vx write a timer. -/
theorem cyclesKeepTimers : Obligations.CyclesKeepTimers := by
  intro s t keys rnd h hstep
  obtain ⟨host, -, hcycle⟩ := exists_step_eq_cycle h
  exact cycle_timers (s := s.withHost host) (hcycle.symm.trans hstep)

/-! ### Along a tick (R243, R244) -/

/-- A timer counts down to zero and stays there, as subtraction of numbers does (R243). -/
theorem toNat_countDown (b : Byte) : (countDown b).toNat = b.toNat - 1 := by
  unfold countDown
  split
  next h => rw [h]; rfl
  next h => bv_omega

/-- A tick changes no field but the timers. -/
theorem State.tick_eq (s : State) : s.tick = { s with DT := s.tick.DT, ST := s.tick.ST, host := s.tick.host } := by
  unfold State.tick
  split <;> rfl

theorem State.tick_of_not_faulted {s : State} (hm : s.mode ≠ .faulted) :
    s.tick = { s with DT := countDown s.DT, ST := countDown s.ST } := if_neg hm

/-- Settles O14: the tick acts on a state that differs in the host's side alone, where it writes the timers or nothing. -/
theorem tickCountsDown : Obligations.TickCountsDown := by
  intro s h
  obtain ⟨host, hstep⟩ := exists_step_eq_perform s
  rw [h] at hstep
  refine ⟨_, hstep, (s.withHost host).settled.tick_eq, fun hm => ?faulted, fun hm => ?counting⟩
  case faulted =>
    rw [State.tick_of_faulted (s := (s.withHost host).settled) hm]
    exact ⟨rfl, rfl⟩
  case counting =>
    rw [State.tick_of_not_faulted (s := (s.withHost host).settled) hm]
    exact ⟨toNat_countDown s.DT, toNat_countDown s.ST⟩

end Sys2Proof.Machine

/-! SUPPORT. The host's transactions and outputs (R31, R245 to R251): the draw flag's acknowledgement, the queue along a step
(logs 2 and 3), and the display as bytes. -/

namespace Sys2Proof.Machine

/-- Settles O15: the acknowledgement acts on a state that differs in the host's side alone, in whatever mode. -/
theorem ackDrawClears : Obligations.AckDrawClears := by
  intro s h
  obtain ⟨host, hstep⟩ := exists_step_eq_perform s
  rw [h] at hstep
  exact ⟨_, hstep, rfl, rfl⟩

/-! ### The queue (R247) -/

/-- No transaction touches the queue or the count of free draws: taking it did. -/
theorem perform_queue {tr : Transaction} {s t : State} (h : perform tr s = .next t) :
    t.host.pending = s.host.pending ∧ t.host.draws = s.host.draws := by
  cases tr with
  | init =>
    cases h
    exact ⟨rfl, rfl⟩
  | loadProgram bytes =>
    obtain ⟨-, -, rfl⟩ := loadProgram_eq_next.1 h
    exact ⟨rfl, rfl⟩
  | runCycle keys rnd =>
    rw [cycle_host (s := s.beginCycle keys rnd) h]
    exact ⟨rfl, rfl⟩
  | tick =>
    cases h
    rw [State.tick_host]
    exact ⟨rfl, rfl⟩
  | ackDraw =>
    cases h
    exact ⟨rfl, rfl⟩

theorem State.takeTransaction_pending (s : State) : s.takeTransaction.host.pending = s.host.pending.tail := by
  unfold State.takeTransaction
  cases h : s.host.pending with
  | nil => exact h
  | cons tr rest => rfl

theorem State.takeTransaction_draws (s : State) :
    s.takeTransaction.host.draws = if s.host.pending = [] then s.host.draws + 1 else s.host.draws := by
  unfold State.takeTransaction
  cases s.host.pending <;> rfl

/-- Settles O21: the next transaction is the head of the queue or the free draw, taking it moves the queue or the count, and
performing it moves neither. -/
theorem oneTransactionPerStep : Obligations.OneTransactionPerStep := by
  refine ⟨fun s tr rest h => ?queued, fun s h => ?free, fun s t hstep => ?taken⟩
  case queued => rw [State.nextTransaction, h]
  case free => rw [State.nextTransaction, h]
  case taken =>
    obtain ⟨hpending, hdraws⟩ := perform_queue hstep
    exact ⟨hpending.trans s.takeTransaction_pending, hdraws.trans s.takeTransaction_draws⟩

/-! ### The display as bytes (R31, R250) -/

/-- The display as the host reads it is its rows one after another, a byte for each pixel. -/
theorem State.displayBytes_eq (s : State) :
    s.displayBytes = (s.disp.flatten.map fun px => if px then 1 else 0).toList := by
  simp [State.displayBytes, Vector.flatten, Vector.toList, List.flatMap_def, Function.comp_def]

theorem State.length_displayBytes (s : State) : s.displayBytes.length = 2048 := by
  rw [State.displayBytes_eq, Vector.length_toList]

theorem State.getElem?_displayBytes (s : State) (r : Fin 32) (c : Fin 64) :
    s.displayBytes[r.val * 64 + c.val]? = some (if s.disp.pixel r c then 1 else 0) := by
  have hr : (r.val * 64 + c.val) / 64 = r.val := by omega
  have hc : (r.val * 64 + c.val) % 64 = c.val := by omega
  rw [State.displayBytes_eq, Vector.getElem?_toList, Vector.getElem?_map, Vector.getElem?_flatten, dif_pos (by omega)]
  simp only [hr, hc, Option.map_some]
  rfl

/-- Settles O22: the bytes are the flattened display's pixels, and every other output is read off its field. -/
theorem hostOutputs : Obligations.HostOutputs := by
  intro s
  exact ⟨s.length_displayBytes, s.getElem?_displayBytes, bne_iff_ne, rfl, rfl, rfl, rfl, rfl, rfl⟩

end Sys2Proof.Machine

/-! SUPPORT. Which step answers a next state, and which is refused (R263, R264, R271): every transaction but load_program has a
next state, and load_program has one right after initialize and within the image bound. -/

namespace Sys2Proof.Machine

/-! ### load_program after a step (R263, R264) -/

@[simp] theorem State.takeTransaction_loadable (s : State) : s.takeTransaction.host.loadable = s.host.loadable := by
  unfold State.takeTransaction
  cases s.host.pending <;> rfl

/-- Of the transactions only initialize leaves a state where load_program may come next (log 5). -/
theorem perform_loadable {tr : Transaction} {s t : State} (h : perform tr s = .next t) :
    t.host.loadable = true ↔ tr = .init := by
  cases tr with
  | init =>
    cases h
    exact iff_of_true rfl rfl
  | loadProgram bytes =>
    obtain ⟨-, -, rfl⟩ := loadProgram_eq_next.1 h
    exact iff_of_false Bool.false_ne_true (nomatch ·)
  | runCycle keys rnd =>
    rw [cycle_host (s := s.beginCycle keys rnd) h]
    exact iff_of_false Bool.false_ne_true (nomatch ·)
  | tick =>
    cases h
    rw [State.tick_host]
    exact iff_of_false Bool.false_ne_true (nomatch ·)
  | ackDraw =>
    cases h
    exact iff_of_false Bool.false_ne_true (nomatch ·)

theorem step_loadable {s t : State} (h : step s = .next t) : t.host.loadable = true ↔ s.nextTransaction = .init :=
  perform_loadable h

theorem step_loadProgram_eq_next {s t : State} {bytes : List Byte} (h : s.nextTransaction = .loadProgram bytes) :
    step s = .next t ↔ s.host.loadable = true ∧ bytes.length ≤ 0xE00 ∧
      t = { s.takeTransaction.settled with mem := s.mem.writeBytes 0x200 bytes } := by
  have hstep : step s = loadProgram bytes s.takeTransaction := by rw [step, h, perform]
  rw [hstep, loadProgram_eq_next, State.takeTransaction_loadable, State.takeTransaction_mem]

/-- Settles O18: the step before was initialize, so the load may come next, and its next state has the image written at 0x200. -/
theorem loadProgramCopies : Obligations.LoadProgramCopies := by
  intro s s1 bytes hinit hstep hload hlen
  refine ⟨_, (step_loadProgram_eq_next hload).2 ⟨(step_loadable hstep).2 hinit, hlen, rfl⟩, ?frame,
    fun k b hk => s1.mem.read_writeBytes_of_getElem? 0x200 hk, fun a ha => s1.mem.read_writeBytes_of_outside ha⟩
  case frame => rw [s1.takeTransaction_eq_withHost]; rfl

/-- No outcome is a fault (R271), so it is a refusal exactly when it is no next state. -/
theorem exists_eq_refused_iff {o : Host.Outcome State Fault Refusal} :
    (∃ r, o = .refused r) ↔ ¬ ∃ t, o = .next t := by
  cases o with
  | next t => exact iff_of_false (nomatch ·) (not_not_intro ⟨t, rfl⟩)
  | fault f => nomatch f
  | refused r => exact iff_of_true ⟨r, rfl⟩ (nomatch ·)

/-- Settles O19: the load is refused where it has no next state, and it has one exactly after initialize and within the image
bound. -/
theorem loadProgramRefused : Obligations.LoadProgramRefused := by
  intro s s1 bytes hstep hload
  have hnext : (∃ t, step s1 = .next t) ↔ s.nextTransaction = .init ∧ bytes.length ≤ 0xE00 := by
    simp only [step_loadProgram_eq_next hload, step_loadable hstep, exists_and_left, exists_eq, and_true]
  rw [exists_eq_refused_iff, hnext, not_and_or, Nat.not_le]

/-! ### Every other transaction (R271) -/

/-- A cycle never stops: a fault of the fetch or the decoder, as one of exec, is a next state (R237). -/
theorem exists_cycle_eq_next (s : State) : ∃ t, cycle s = .next t := by
  cases hm : s.mode with
  | faulted => exact ⟨_, cycle_of_faulted hm⟩
  | awaitingKey => exact ⟨_, cycle_of_awaitingKey hm⟩
  | running =>
    cases hw : s.fetch with
    | error bad => exact ⟨_, cycle_of_fetch_error hm hw⟩
    | ok w =>
      cases hd : decode w with
      | illegal why => exact ⟨_, cycle_of_illegal hm hw hd⟩
      | instr i => exact ⟨_, (cycle_of_instr hm hw hd).trans (exec_eq i s)⟩

theorem exists_perform_eq_next {tr : Transaction} (s : State) (h : ∀ bytes, tr ≠ .loadProgram bytes) :
    ∃ t, perform tr s = .next t := by
  cases tr with
  | loadProgram bytes => exact absurd rfl (h bytes)
  | runCycle keys rnd => exact exists_cycle_eq_next (s.beginCycle keys rnd)
  | init | tick | ackDraw => exact ⟨_, rfl⟩

/-- Settles O20: every transaction but load_program has a next state, so a refused one is a load_program. -/
theorem coreNeverStops : Obligations.CoreNeverStops := by
  have hnext : ∀ s : State, (∀ bytes, s.nextTransaction ≠ .loadProgram bytes) → ∃ t, step s = .next t :=
    fun s => exists_perform_eq_next s.takeTransaction
  refine ⟨hnext, fun s r hr => ?_⟩
  by_contra hno
  exact exists_eq_refused_iff.1 ⟨r, hr⟩ (hnext s (not_exists.1 hno))

end Sys2Proof.Machine
